-- ==== Sys2Proof/Word.lean ====
section
/-!
DEFINITION. Sys2Proof/Word.lean: the word types of the block: a 64-bit operand or result pattern (R9, R31) and the
three fields it is made of (R31).
-/

namespace Sys2Proof

/-- A raw 64-bit pattern, the operand or the result of a port (R9, R25). -/
abbrev Word := BitVec 64

/-- The sign field, bit 63 (R31). -/
abbrev SignBit := BitVec 1

/-- The biased exponent field, bits 62:52 (R31). -/
abbrev ExpField := BitVec 11

/-- The mantissa field, bits 51:0 (R31). -/
abbrev MantField := BitVec 52

/-- An address of the calibration ROM (R21, R35). -/
abbrev RomIndex := BitVec 5

end Sys2Proof
end

