-- ==== Sys2Proof/Config.lean ====
section
/-!
DEFINITION. Sys2Proof/Config.lean: the form of the calibration ROM (R34, R43), and the two parameters of R3 that the spec leaves open and no rule
reads. The parameters that the spec gives a value stand in Sys2Proof/Machine/Params.lean.
-/

namespace Sys2Proof

/-- An entry of the calibration ROM: an unsigned 26-bit base and an unsigned 11-bit decrement (R34, R43). PRESUMED: the widths, log entry 9. -/
structure CalEntry where
  base : BitVec 26
  dec  : BitVec 11
deriving DecidableEq, Repr

/-- The contents of a calibration ROM: 32 entries (R43). -/
abbrev CalTable := Vector CalEntry 32

/-- The range of HOST_BYTE_ORDER. DESIGN CHOICE: R25 names the parameter and lists no values for it (N16, U9), and the model allows little and big and no mixed
order of a double's words; log entry 15; unsafe. No meaning reads it. -/
inductive ByteOrder where
  | little | big
deriving DecidableEq, Repr, Inhabited

namespace Config

/-- RSQRTE_LATENCY, the time from operand to result, which may depend on the operand (R3, R91). OPEN: no body, and no meaning reads it.
DESIGN CHOICE: the spec names no unit and no range of this time, and the model counts it in Nat; log entry 12; unsafe. -/
opaque rsqrteLatency : Word → Nat

/-- HOST_BYTE_ORDER (R25, D9). OPEN: no body, and no meaning reads it, since the block sees whole words (log entry 15). -/
opaque hostByteOrder : ByteOrder

end Config

end Sys2Proof
end

