-- ==== Sys2Proof/Machine/Params.lean ====
section
/-!
DEFINITION. Sys2Proof/Machine/Params.lean: the parameters of R3 that the spec gives a value: the exact constants of R4, the contents of the calibration
ROM (R44), the default quiet NaN (D5), and the quiet bit (GK3).
-/

namespace Sys2Proof.Params

/-- EXP_BIAS (R3, R4). -/
def expBias : Int := 1023

/-- EXP_OFFSET, "offset constant one unit below bias" (R3, R4). -/
def expOffset : Int := 1022

/-- IDX_SHIFT: the right shift that leaves the 15-bit mantissa index (R3, R4). -/
def idxShift : Nat := 37

/-- FRAC_SHIFT: the left shift that places the mantissa contribution (R3, R4). -/
def fracShift : Nat := 26

/-- DEFAULT_QNAN, the pattern returned for -infinity and for negative inputs (R3, D5).
PRESUMED: the value is the spec's own from general knowledge (GK5); log entry 6; unsafe. -/
def defaultQnan : Word := 0x7FF8000000000000

/-- The quiet bit of a NaN, bit 51 (R59, GK3). PRESUMED: log entry 7; unsafe. -/
def quietBit : Word := 0x0008000000000000

/-- Entries 0 to 15 of CAL_TABLE, the half selected when the odd-exponent flag is false (R43, R44). -/
def calTableEven : Vector CalEntry 16 := #v[
  ⟨0x3FFA000, 0x7A4⟩, ⟨0x3C29000, 0x700⟩, ⟨0x38AA000, 0x670⟩, ⟨0x3572000, 0x5F2⟩,
  ⟨0x3279000, 0x584⟩, ⟨0x2FB7000, 0x524⟩, ⟨0x2D26000, 0x4CC⟩, ⟨0x2AC0000, 0x47E⟩,
  ⟨0x2881000, 0x43A⟩, ⟨0x2665000, 0x3FA⟩, ⟨0x2468000, 0x3C2⟩, ⟨0x2287000, 0x38E⟩,
  ⟨0x20C1000, 0x35E⟩, ⟨0x1F12000, 0x332⟩, ⟨0x1D79000, 0x30A⟩, ⟨0x1BF4000, 0x2E6⟩]

/-- Entries 16 to 31 of CAL_TABLE, the half selected when the odd-exponent flag is true (R43, R44). -/
def calTableOdd : Vector CalEntry 16 := #v[
  ⟨0x1A7E800, 0x568⟩, ⟨0x17CB800, 0x4F3⟩, ⟨0x1552800, 0x48D⟩, ⟨0x130C000, 0x435⟩,
  ⟨0x10F2000, 0x3E7⟩, ⟨0x0EFF000, 0x3A2⟩, ⟨0x0D2E000, 0x365⟩, ⟨0x0B7C000, 0x32E⟩,
  ⟨0x09E5000, 0x2FC⟩, ⟨0x0867000, 0x2D0⟩, ⟨0x06FF000, 0x2A8⟩, ⟨0x05AB800, 0x283⟩,
  ⟨0x046A000, 0x261⟩, ⟨0x0339800, 0x243⟩, ⟨0x0218800, 0x226⟩, ⟨0x0105800, 0x20B⟩]

/-- CAL_TABLE, the contents of the calibration ROM (R44, D3).
PRESUMED: the 32 values are the spec's own from general knowledge (GK2); log entry 5; unsafe. -/
def calTable : CalTable := calTableEven ++ calTableOdd

end Sys2Proof.Params
end

