-- ==== Sys2Proof/Syntax.lean ====
section
/-!
DEFINITION. Sys2Proof/Syntax.lean: what the host can ask of the block (R37, R41, R82), the seven operand classes (R38,
R50), and the instructions: one constructor per row of spec/opcode_table.json.
-/

namespace Sys2Proof

/-- The three units, each with one operation (R37). -/
inductive BlockUnit where
  /-- fp_reciprocal_sqrt_approximator, operation RSQRTE. -/
  | top
  /-- ieee754_bit_field_extractor, operation EXTRACT. -/
  | extractor
  /-- calibration_table_lookup, operation LOOKUP. -/
  | calibration
deriving DecidableEq, Repr

/-- One transaction of R41: the unit the host drives and the operand word it presents, whole (R82, R83). -/
inductive Transaction where
  | rsqrte (x : Word)
  | extract (x : Word)
  | lookup (idx : RomIndex)
deriving DecidableEq, Repr

/-- What the host does at the block's interface: it presents an operand to a unit, or it reads the result port Y (R82). -/
inductive HostAction where
  | present (t : Transaction)
  | readY
deriving DecidableEq, Repr

/-- The classes of an operand, in the order of R38. -/
inductive OperandClass where
  | zero | pinf | ninf | nan | neg | denorm | norm
deriving DecidableEq, Repr

/-- The instructions: the seven classes of RSQRTE, each with the operand fields its class leaves open, and the operations of
the two sub-blocks. -/
inductive Instr where
  /-- RSQRTE.ZERO: X is +0.0 or -0.0 (R56). -/
  | rsqrteZero (sg : SignBit)
  /-- RSQRTE.PINF: X is +infinity (R57). -/
  | rsqrtePinf
  /-- RSQRTE.NINF: X is -infinity (R58). -/
  | rsqrteNinf
  /-- RSQRTE.NAN: X is a NaN of either sign (R59). -/
  | rsqrteNan (sg : SignBit) (m : MantField)
  /-- RSQRTE.NEG: X is negative, not zero, finite (R60). -/
  | rsqrteNeg (e : ExpField) (m : MantField)
  /-- RSQRTE.DENORM: X is a positive denormal (R61). -/
  | rsqrteDenorm (m : MantField)
  /-- RSQRTE.NORM: X is a positive normal number (R70). -/
  | rsqrteNorm (e : ExpField) (m : MantField)
  /-- EXTRACT: the fields and the class of a pattern (R49). -/
  | extract (x : Word)
  /-- LOOKUP: one entry of the calibration ROM (R45). -/
  | lookup (idx : RomIndex)
deriving DecidableEq, Repr

end Sys2Proof
end

