-- ==== Sys2Proof/Machine/Operands.lean ====
section
/-!
DEFINITION. Sys2Proof/Machine/Operands.lean: the operand's fields (R31, R48) and class (R50), the mantissa index and the table
index (R35, R36, R64, R66, R67), the layouts of an operand and of a result (R32, R33), and the one read of the ROM (R22, R45).
-/

namespace Sys2Proof.Machine

/-- s, bit 63 of a pattern (R48). -/
def signOf (x : Word) : SignBit := x.extractLsb' 63 1

/-- e, bits 62:52 of a pattern (R48). -/
def expOf (x : Word) : ExpField := x.extractLsb' 52 11

/-- m, bits 51:0 of a pattern (R48). -/
def mantOf (x : Word) : MantField := x.extractLsb' 0 52

/-- The pattern with the given fields, `s {e} {m}` (R31, R32). -/
def assemble (sg : SignBit) (e : ExpField) (m : MantField) : Word := sg ++ e ++ m

/-- The result pattern of the arithmetic path, `s {E_out} {frac} {0^26}` (R33, R69). -/
def resultWord (sg : SignBit) (eo : ExpField) (frac : BitVec 26) : Word := sg ++ eo ++ frac ++ (0 : BitVec 26)

/-- The result pattern as R69 writes it, by shifts and bitwise or. -/
def resultByShifts (sg : SignBit) (eo : ExpField) (frac : BitVec 26) : Word :=
  sg.setWidth 64 <<< 63 ||| eo.setWidth 64 <<< 52 ||| frac.setWidth 64 <<< Params.fracShift

/-- Class(s, e, m): the first test that holds, in the order of R50. -/
def classOfFields (sg : SignBit) (e : ExpField) (m : MantField) : OperandClass :=
  if e = 0 ∧ m = 0 then .zero
  else if e = 0x7FF ∧ m = 0 then (if sg = 1 then .ninf else .pinf)
  else if e = 0x7FF then .nan
  else if sg = 1 then .neg
  else if e = 0 then .denorm
  else .norm

/-- The class of a pattern, by its fields (R49, R50). -/
def classOf (x : Word) : OperandClass := classOfFields (signOf x) (expOf x) (mantOf x)

/-- The mantissa index i, bits 51:37 of the mantissa, in 0..32767 (R36, R66, 90_conflicts.md C1). -/
def mantIndex (m : MantField) : Nat := m.toNat >>> Params.idxShift

/-- The coarse index, the top four bits of the mantissa index (R36, R66, 90_conflicts.md C2). -/
def coarseIndex (m : MantField) : Nat := mantIndex m >>> 11

/-- The fine index, the low eleven bits of the mantissa index (R36, R66). -/
def fineIndex (m : MantField) : Nat := mantIndex m % 2048

/-- The odd-exponent flag: true when the working exponent is even, with the non-negative remainder (R64, 90_conflicts.md C4). -/
def oddFlag (E : Int) : Bool := E % 2 == 0

/-- The table index, `coarse + (odd ? 16 : 0)` (R35, R67). -/
def tableIndex (E : Int) (m : MantField) : RomIndex := BitVec.ofNat 5 (coarseIndex m + if oddFlag E then 16 else 0)

/-- CalRead(k): the whole entry at an index of the ROM (R7, R22, R67). -/
def calRead (rom : CalTable) (idx : RomIndex) : CalEntry := rom.get idx.toFin

end Sys2Proof.Machine
end

