-- ==== Sys2Proof/WellFormed.lean ====
section
/-!
DEFINITION. Sys2Proof/WellFormed.lean: which terms of Instr stand for an operand of their class (R38, R50): the extra conditions of the
rows, and the exclusions that the rows' order makes.
-/

namespace Sys2Proof

/-- The fields of an instruction are ones its row of R38 matches: a NaN and a denormal have a mantissa that is not zero, a normal number an
exponent in 1..2046, a negative finite number is neither a zero nor has the all-ones exponent (R59, R60, R61, R70). -/
def Instr.wellFormed : Instr → Bool
  | .rsqrteZero _ => true
  | .rsqrtePinf => true
  | .rsqrteNinf => true
  | .rsqrteNan _ m => m != 0
  | .rsqrteNeg e m => e != 0x7FF && !(e == 0 && m == 0)
  | .rsqrteDenorm m => m != 0
  | .rsqrteNorm e _ => e != 0 && e != 0x7FF
  | .extract _ => true
  | .lookup _ => true

end Sys2Proof
end

