-- ==== Sys2Proof/Decode.lean ====
section
/-!
DEFINITION. Sys2Proof/Decode.lean: the operand decode of R38, row by row; the encoder of R31, R35 and R41; the written form of a
transaction (R41); and the reading of a bare word of spec/opcode_table.json.
-/

namespace Sys2Proof

open Machine

/-- The extra conditions that a row of R38 names. -/
inductive RowCondition where
  | none
  | mantissaNotZero
  | exponentNormal
deriving DecidableEq, Repr

/-- A row of the operand decode of R38. -/
structure OperandRow where
  cls       : OperandClass
  pattern   : Word
  mask      : Word
  condition : RowCondition
deriving DecidableEq, Repr

/-- The extra condition of a row, read on a pattern's fields (R38). -/
def RowCondition.holds (c : RowCondition) (x : Word) : Bool :=
  match c with
  | .none => true
  | .mantissaNotZero => mantOf x != 0
  | .exponentNormal => 1 ≤ (expOf x).toNat && (expOf x).toNat ≤ 2046

/-- A row matches when `(X & mask) == match` and its extra condition holds (R38). -/
def OperandRow.hits (r : OperandRow) (x : Word) : Bool := (x &&& r.mask) == r.pattern && r.condition.holds x

/-- The seven rows of R38, in priority order. -/
def operandRows : List OperandRow := [
  ⟨.zero,   0x0000000000000000, 0x7FFFFFFFFFFFFFFF, .none⟩,
  ⟨.pinf,   0x7FF0000000000000, 0xFFFFFFFFFFFFFFFF, .none⟩,
  ⟨.ninf,   0xFFF0000000000000, 0xFFFFFFFFFFFFFFFF, .none⟩,
  ⟨.nan,    0x7FF0000000000000, 0x7FF0000000000000, .mantissaNotZero⟩,
  ⟨.neg,    0x8000000000000000, 0x8000000000000000, .none⟩,
  ⟨.denorm, 0x0000000000000000, 0xFFF0000000000000, .mantissaNotZero⟩,
  ⟨.norm,   0x0000000000000000, 0x8000000000000000, .exponentNormal⟩]

/-- The class of the first row that matches (R38). -/
def rowClass (x : Word) : Option OperandClass := (operandRows.find? (·.hits x)).map (·.cls)

/-- The instruction of a class, with the operand fields the class leaves open (R42). -/
def instrOfClass (c : OperandClass) (x : Word) : Instr :=
  match c with
  | .zero => .rsqrteZero (signOf x)
  | .pinf => .rsqrtePinf
  | .ninf => .rsqrteNinf
  | .nan => .rsqrteNan (signOf x) (mantOf x)
  | .neg => .rsqrteNeg (expOf x) (mantOf x)
  | .denorm => .rsqrteDenorm (mantOf x)
  | .norm => .rsqrteNorm (expOf x) (mantOf x)

/-- The instruction a transaction starts: the unit driven selects the operation (R37), and RSQRTE's operand is decoded by R38. It answers
none for an operand that no row matches; R39 says there is no such operand. -/
def decode (t : Transaction) : Option Instr :=
  match t with
  | .rsqrte x => (rowClass x).map (instrOfClass · x)
  | .extract x => some (.extract x)
  | .lookup idx => some (.lookup idx)

/-- The transaction that starts an instruction: the operand word is its encoding (R31, R41). -/
def encode (i : Instr) : Transaction :=
  match i with
  | .rsqrteZero sg => .rsqrte (assemble sg 0 0)
  | .rsqrtePinf => .rsqrte (assemble 0 0x7FF 0)
  | .rsqrteNinf => .rsqrte (assemble 1 0x7FF 0)
  | .rsqrteNan sg m => .rsqrte (assemble sg 0x7FF m)
  | .rsqrteNeg e m => .rsqrte (assemble 1 e m)
  | .rsqrteDenorm m => .rsqrte (assemble 0 0 m)
  | .rsqrteNorm e m => .rsqrte (assemble 0 e m)
  | .extract x => .extract x
  | .lookup idx => .lookup idx

/-- The unit a transaction drives (R37). -/
def Transaction.drives (t : Transaction) : BlockUnit :=
  match t with
  | .rsqrte _ => .top
  | .extract _ => .extractor
  | .lookup _ => .calibration

/-- The width of a unit's operand (R40). -/
def BlockUnit.operandBits (u : BlockUnit) : Nat :=
  match u with
  | .top => 64
  | .extractor => 64
  | .calibration => 5

/-- The operand word of a transaction, its encoding (R41). -/
def Transaction.operand (t : Transaction) : Nat :=
  match t with
  | .rsqrte x => x.toNat
  | .extract x => x.toNat
  | .lookup idx => idx.toNat

/-- The transaction that drives a unit with an operand word, if the word has the unit's width (R39, R40). -/
def Transaction.ofOperand (u : BlockUnit) (w : Nat) : Option Transaction :=
  if w < 2 ^ u.operandBits then
    match u with
    | .top => some (.rsqrte (BitVec.ofNat 64 w))
    | .extractor => some (.extract (BitVec.ofNat 64 w))
    | .calibration => some (.lookup (BitVec.ofNat 5 w))
  else none

/-- The 16 hex digits of a pattern, most significant first (R5, R41). -/
def hexDigits (x : Word) : List Char :=
  (List.range 16).map fun k =>
    let d := (x >>> (60 - 4 * k)).toNat % 16
    Char.ofNat (if d < 10 then 48 + d else 55 + d)

/-- The decimal digits of an index below 32 (R41). -/
def indexDigits (idx : RomIndex) : List Char :=
  let low := Char.ofNat (48 + idx.toNat % 10)
  if idx.toNat < 10 then [low] else [Char.ofNat (48 + idx.toNat / 10), low]

/-- A transaction's line in the syntax of R41, character by character. -/
def Transaction.line (t : Transaction) : List Char :=
  match t with
  | .rsqrte x => ['r', 's', 'q', 'r', 't', 'e', ' ', '0', 'x'] ++ hexDigits x
  | .extract x => ['e', 'x', 't', 'r', 'a', 'c', 't', ' ', '0', 'x'] ++ hexDigits x
  | .lookup idx => ['l', 'o', 'o', 'k', 'u', 'p', ' '] ++ indexDigits idx

/-- The unit that a bare word of the opcode table is presented to. DESIGN CHOICE (log entry 13): no bit of a word says which unit the host
drives (R37), so 64 bits are an operand of the top block, and the one byte of row LOOKUP an index of the lookup unit. -/
def tableUnit (nbits : Nat) : Option BlockUnit :=
  if nbits = 64 then some .top
  else if nbits = 8 then some .calibration
  else none

/-- The transaction that a bare word of the opcode table stands for (log entry 13). -/
def tableTransaction (nbits w : Nat) : Option Transaction :=
  (tableUnit nbits).bind (Transaction.ofOperand · w)

/-- The instruction decoded from a bare word of the opcode table (log entry 13). -/
def decodeTableWord (nbits w : Nat) : Option Instr := (tableTransaction nbits w).bind decode

end Sys2Proof
end

