-- ==== Sys2Proof/Machine/State.lean ====
section
/-!
DEFINITION. Sys2Proof/Machine/State.lean: the state of the block (R9, R10, R11, R16, R20) with the host's side of its interface (R82), the
reasons a step can stop, and the state after reset (R20, R86).
-/

namespace Sys2Proof.Machine

/-- What the extractor drives: the fields and the class of its input (R10, R49). The seven class lines are `classLines cls` (R50). -/
structure Extracted where
  sg  : SignBit
  e   : ExpField
  m   : MantField
  cls : OperandClass
deriving DecidableEq, Repr

/-- The block and the host's side of its interface. X and Y are its only data registers (R13); the sub-blocks' ports carry a value only from the
transaction that drives them to the host's next transaction (R10, R11, log entry 4). A port with no value is the spec's own state: "X and Y hold no
value" (R19, R86). -/
structure State where
  /-- The operand port X, kept (R9, R13). -/
  x : Option Word
  /-- The result port Y, kept (R9, R13). -/
  y : Option Word
  /-- The extractor's input port, a carrier and no register (R10, R13). -/
  exIn : Option Word
  /-- The extractor's output ports, carriers and no registers (R10, R13, R50). -/
  exOut : Option Extracted
  /-- The lookup unit's input port idx, a carrier and no register (R11, R13). -/
  lkIn : Option RomIndex
  /-- The lookup unit's output ports base and dec, carriers and no registers (R11, R13). -/
  lkOut : Option CalEntry
  /-- The calibration ROM (R16, R43). -/
  rom : CalTable
  /-- The MODEL's own: what the host will do next, oldest first (R82). DESIGN CHOICE (log entry 1). -/
  host : List HostAction
  /-- The MODEL's own: what the host's last read of Y got (R82). DESIGN CHOICE (log entry 2). -/
  hostRead : Option Word
deriving DecidableEq, Repr

/-- Why the machine stops with a fault. -/
inductive Fault where
  /-- Raised by the host's read of Y when Y holds no value: "A model that reads `Y` before any operation has completed
  faults; it does not return zero" (R19, D8, U7). Safe: no claim about a value read too early can be proved. -/
  | readBeforeResult
deriving DecidableEq, Repr

/-- Why the model gives a step no meaning. -/
inductive Refusal where
  /-- Raised by an arm of exec whose instruction has no meaning yet; no arm does so now. Safe. -/
  | notModelled (mnemonic : String)
  /-- Raised by the arithmetic path when the ROM entry read has `base - dec * fine` below zero: "a model must accept only a CAL_TABLE
  with the property of rule R47" (U6). No state whose ROM has that property raises it. Safe. Log entry 11. -/
  | calTableOutOfRange
  /-- Raised by step for an operand that no row of R38 matches. No operand raises it (R39). Safe. -/
  | noOperandRow
deriving DecidableEq, Repr

/-- The state right after reset: the ROM holds CAL_TABLE, every port holds no value (R20, R86), and the host has asked for
nothing (log entries 1 and 2). -/
def State.reset : State where
  x := none
  y := none
  exIn := none
  exOut := none
  lkIn := none
  lkOut := none
  rom := Params.calTable
  host := []
  hostRead := none

end Sys2Proof.Machine
end

