-- ==== Sys2Proof/Machine/Ops.lean ====
section
/-!
DEFINITION. Sys2Proof/Machine/Ops.lean: the named operations on the ports and on the ROM, and the host's two actions (R82). The block has no memory
operation (R24), takes no exception and returns from none (R73, R78), so there is none of these here.
-/

namespace Sys2Proof.Machine

/-- `Y <- v`: the block drives the result port, whole (R7, R27). -/
def State.driveY (s : State) (v : Word) : State := { s with y := some v }

/-- The extractor drives its outputs (R10, R49). -/
def State.driveExtracted (s : State) (o : Extracted) : State := { s with exOut := some o }

/-- The lookup unit drives its outputs (R11, R45). -/
def State.driveEntry (s : State) (c : CalEntry) : State := { s with lkOut := some c }

/-- CalRead(idx) on the block's own ROM (R7, R45, R67). -/
def State.romRead (s : State) (idx : RomIndex) : CalEntry := calRead s.rom idx

/-- The host lets go of the sub-blocks' inputs. The sub-blocks hold no state (R10, R11), so their outputs go with them, and X and Y alone are kept
(R13). DESIGN CHOICE: that this happens when the host presents its next transaction, log entry 4. -/
def State.releaseSubBlocks (s : State) : State := { s with exIn := none, exOut := none, lkIn := none, lkOut := none }

/-- The host presents a whole operand to the input port of the unit it drives (R82, R83), and no longer drives a sub-block that it drove before
(R13, R37). -/
def State.present (s : State) (t : Transaction) : State :=
  match t with
  | .rsqrte x => { s.releaseSubBlocks with x := some x }
  | .extract x => { s.releaseSubBlocks with exIn := some x }
  | .lookup idx => { s.releaseSubBlocks with lkIn := some idx }

/-- The host's action at the head of its list is under way: the rest remains (log entry 1). -/
def State.setHost (s : State) (h : List HostAction) : State := { s with host := h }

/-- The host has read a value from Y (R82, log entry 2). -/
def State.recordRead (s : State) (v : Word) : State := { s with hostRead := some v }

/-- The host reads Y: a fault before the first operation has completed (R19, U7), afterwards the value Y holds (R82). -/
def readY (s : State) : Host.Outcome State Fault Refusal :=
  match s.y with
  | none => .fault .readBeforeResult
  | some v => .next (s.recordRead v)

end Sys2Proof.Machine
end

