-- ==== Sys2Proof/Machine/Arith.lean ====
section
/-!
DEFINITION. Sys2Proof/Machine/Arith.lean: the arithmetic path of RSQRTE (R61 to R70): normalization, output exponent, mantissa contribution
and result, over exact integers (R55).
-/

namespace Sys2Proof.Machine

/-- The repeat loop of Normalize on the working exponent and the mantissa, with at most `fuel` rounds: each round takes one from
the exponent and doubles the mantissa, until bit 52 is set (R62). R90: 52 rounds are always enough. -/
def normalizeLoop (fuel : Nat) (E : Int) (m : Nat) : Int × Nat :=
  match fuel with
  | 0 => (E, m)
  | n + 1 => if (m <<< 1).testBit 52 then (E - 1, m <<< 1) else normalizeLoop n (E - 1) (m <<< 1)

/-- Normalize(m): the loop from exponent 0, then the implicit bit masked out and the exponent re-biased by one (R62). DEDUCED: the
amount, log entry 10; unsafe. -/
def normalizeMant (m : MantField) : Int × MantField :=
  let r := normalizeLoop 52 0 m.toNat
  (r.1 + 1, BitVec.ofNat 52 r.2)

/-- E_out, `((3068 - E) >> 1) & 0x7FF` (R65, D12). DEDUCED: log entry 8; unsafe. -/
def outExponent (E : Int) : ExpField := BitVec.ofInt 11 ((3068 - E) >>> (1 : Nat))

/-- E_out at field position: the exponent is held in bits 62:52 of a signed 64-bit word, and the mask drops bit 51, the half unit (R65). -/
def outExponentAtField (E : Int) : ExpField :=
  (BitVec.ofInt 64 (Params.expBias * 2 ^ 52 - (E - Params.expOffset) * 2 ^ 52 / 2)).extractLsb' 52 11

/-- The mantissa contribution `base - dec * fine` (R68); none where it would be negative, which no rule defines (U6). DESIGN CHOICE: log entry 11; safe. -/
def mantContribution (c : CalEntry) (fine : Nat) : Option (BitVec 26) :=
  if c.dec.toNat * fine ≤ c.base.toNat then some (BitVec.ofNat 26 (c.base.toNat - c.dec.toNat * fine)) else none

/-- Steps 4 to 9 for a working exponent and a mantissa: the result pattern (R64 to R69). -/
def arithResult (rom : CalTable) (sg : SignBit) (E : Int) (m : MantField) : Option Word :=
  (mantContribution (calRead rom (tableIndex E m)) (fineIndex m)).map (resultWord sg (outExponent E))

/-- The arithmetic path as a transaction: Y is driven with the result (R69); a ROM entry without the property of R47 is refused (U6). -/
def arithPath (sg : SignBit) (E : Int) (m : MantField) (s : State) : Host.Outcome State Fault Refusal :=
  match arithResult s.rom sg E m with
  | some v => .next (s.driveY v)
  | none => .refused .calTableOutOfRange

/-- RSQRTE, class DENORM: normalize, then the arithmetic path, with the sign of a positive operand (R61). -/
def execRsqrteDenorm (m : MantField) (s : State) : Host.Outcome State Fault Refusal :=
  arithPath 0 (normalizeMant m).1 (normalizeMant m).2 s

/-- RSQRTE, class NORM: the working exponent is the field itself (R63), then the arithmetic path (R70). -/
def execRsqrteNorm (e : ExpField) (m : MantField) (s : State) : Host.Outcome State Fault Refusal :=
  arithPath 0 e.toNat m s

end Sys2Proof.Machine
end

