-- ==== Sys2Proof/Machine/Special.lean ====
section
/-!
DEFINITION. Sys2Proof/Machine/Special.lean: RSQRTE on the special-case classes, which read no ROM entry (R23, R54, R56 to R60).
-/

namespace Sys2Proof.Machine

/-- RSQRTE, class ZERO: the infinity with the operand's sign (R56). -/
def execRsqrteZero (sg : SignBit) (s : State) : Host.Outcome State Fault Refusal :=
  .next (s.driveY (assemble sg 0x7FF 0))

/-- RSQRTE, class PINF: +0.0 (R57). -/
def execRsqrtePinf (s : State) : Host.Outcome State Fault Refusal :=
  .next (s.driveY 0x0000000000000000)

/-- RSQRTE, class NINF: DEFAULT_QNAN (R58). -/
def execRsqrteNinf (s : State) : Host.Outcome State Fault Refusal :=
  .next (s.driveY Params.defaultQnan)

/-- RSQRTE, class NAN: the operand with its quiet bit set, every other bit kept (R59, 90_conflicts.md C3). PRESUMED: log entry 7; unsafe. -/
def execRsqrteNan (sg : SignBit) (m : MantField) (s : State) : Host.Outcome State Fault Refusal :=
  .next (s.driveY (assemble sg 0x7FF m ||| Params.quietBit))

/-- RSQRTE, class NEG: DEFAULT_QNAN, whatever the operand's exponent and mantissa (R60). -/
def execRsqrteNeg (_e : ExpField) (_m : MantField) (s : State) : Host.Outcome State Fault Refusal :=
  .next (s.driveY Params.defaultQnan)

end Sys2Proof.Machine
end

