-- ==== Sys2Proof/Machine/SubBlocks.lean ====
section
/-!
DEFINITION. Sys2Proof/Machine/SubBlocks.lean: the operations of the two sub-blocks, EXTRACT (R49) and LOOKUP (R45).
-/

namespace Sys2Proof.Machine

/-- EXTRACT(x): the fields and the class at the extractor's outputs (R48, R49, R50). -/
def execExtract (x : Word) (s : State) : Host.Outcome State Fault Refusal :=
  .next (s.driveExtracted ⟨signOf x, expOf x, mantOf x, classOf x⟩)

/-- LOOKUP(idx): the ROM entry at the lookup unit's outputs (R45). -/
def execLookup (idx : RomIndex) (s : State) : Host.Outcome State Fault Refusal :=
  .next (s.driveEntry (s.romRead idx))

end Sys2Proof.Machine
end

