-- ==== Sys2Proof/Machine/Dispatch.lean ====
section
/-!
DEFINITION. Sys2Proof/Machine/Dispatch.lean: exec, one arm per constructor of Instr.
-/

namespace Sys2Proof.Machine

def exec (i : Instr) (s : State) : Host.Outcome State Fault Refusal :=
  match i with
  | .rsqrteZero sg => Sys2Proof.Machine.execRsqrteZero sg s
  | .rsqrtePinf => Sys2Proof.Machine.execRsqrtePinf s
  | .rsqrteNinf => Sys2Proof.Machine.execRsqrteNinf s
  | .rsqrteNan sg m => Sys2Proof.Machine.execRsqrteNan sg m s
  | .rsqrteNeg e m => Sys2Proof.Machine.execRsqrteNeg e m s
  | .rsqrteDenorm m => Sys2Proof.Machine.execRsqrteDenorm m s
  | .rsqrteNorm e m => Sys2Proof.Machine.execRsqrteNorm e m s
  | .extract x => Sys2Proof.Machine.execExtract x s
  | .lookup idx => Sys2Proof.Machine.execLookup idx s

end Sys2Proof.Machine
end

