-- ==== Sys2Proof/Machine/Transact.lean ====
section
/-!
DEFINITION. Sys2Proof/Machine/Transact.lean: one host transaction, from the operand at a unit's input to the result at its output, as one atomic
step (R82, R91); and where a bare word of the opcode table is placed.
-/

namespace Sys2Proof.Machine

/-- The host presents a transaction: its operand stands at the unit's input, and the unit runs its operation in the same step (R82, R91). -/
def runTransaction (t : Transaction) (s : State) : Host.Outcome State Fault Refusal :=
  match decode t with
  | some i => exec i (s.present t)
  | none => .refused .noOperandRow

/-- A transaction placed before everything else the host will do, so that the next step runs it (log entry 14). -/
def State.placeFirst (s : State) (t : Transaction) : State := s.setHost (.present t :: s.host)

end Sys2Proof.Machine
end

