-- ==== Sys2Proof/Machine/Step.lean ====
section
/-!
DEFINITION. Sys2Proof/Machine/Step.lean: one step of the block and its host.
-/

namespace Sys2Proof.Machine

/-- One step: the host's oldest pending action. With none pending the block does nothing: each operation is started by the host (R12, R82;
log entry 1). -/
def step (s : State) : Host.Outcome State Fault Refusal :=
  match s.host with
  | [] => .next s
  | .present t :: rest => runTransaction t (s.setHost rest)
  | .readY :: rest => readY (s.setHost rest)

/-- The state in which the very next step presents the transaction that a bare word of the opcode table stands for; a word that stands for none
changes nothing (log entries 13 and 14). -/
def State.withFetchWord (s : State) (nbits w : Nat) : State :=
  match tableTransaction nbits w with
  | some t => s.placeFirst t
  | none => s

end Sys2Proof.Machine
end

