-- ==== Sys2Proof/Machine/Flags.lean ====
section
/-!
DEFINITION. Sys2Proof/Machine/Flags.lean: the block has no status flag, and no operation writes one (R14). Its only one-bit
outputs are the class lines of the extractor (R50), here, with the tests of a pattern that R71 and R84 are stated in.
-/

namespace Sys2Proof.Machine

/-- The seven one-bit class outputs of the extractor (R50). -/
structure ClassLines where
  isZero   : Bool
  isPinf   : Bool
  isNinf   : Bool
  isNan    : Bool
  isNeg    : Bool
  isDenorm : Bool
  isNorm   : Bool
deriving DecidableEq, Repr

/-- How the extractor drives its class lines for a class: the one it names is 1, the others 0 (R50). -/
def classLines (c : OperandClass) : ClassLines where
  isZero   := c == .zero
  isPinf   := c == .pinf
  isNinf   := c == .ninf
  isNan    := c == .nan
  isNeg    := c == .neg
  isDenorm := c == .denorm
  isNorm   := c == .norm

/-- The lines in the order of R50. -/
def ClassLines.toList (l : ClassLines) : List Bool :=
  [l.isZero, l.isPinf, l.isNinf, l.isNan, l.isNeg, l.isDenorm, l.isNorm]

/-- A NaN pattern: exponent all ones, mantissa not zero (R50). -/
def isNanWord (x : Word) : Bool := expOf x == 0x7FF && mantOf x != 0

/-- A quiet NaN pattern: a NaN whose bit 51 is 1 (R52, GK3). -/
def isQuietNanWord (x : Word) : Bool := isNanWord x && x.getLsbD 51

/-- An infinity, of either sign (R50). -/
def isInfWord (x : Word) : Bool := expOf x == 0x7FF && mantOf x == 0

/-- A zero, of either sign (R50). -/
def isZeroWord (x : Word) : Bool := expOf x == 0 && mantOf x == 0

/-- A positive normal finite number (R71). -/
def isPosNormalWord (x : Word) : Bool := signOf x == 0 && expOf x != 0 && expOf x != 0x7FF

end Sys2Proof.Machine
end

