-- ==== Sys2Proof/Machine/Harness.lean ====
section
/-!
DEFINITION. Sys2Proof/Machine/Harness.lean: how the host judges one sample (R84). It describes the host, not the block: the oracle's result
is an argument (R85), and no step of the block reads any of this.
-/

namespace Sys2Proof.Machine

/-- What the host makes of one sample (R84). -/
inductive Verdict where
  | skipped
  | agrees
  | differs
deriving DecidableEq, Repr

/-- The host's judgement of a sample `x`, with the oracle's result and the model's: a NaN sample is skipped, two NaNs match, and otherwise
the two patterns must be equal bit for bit (R84). -/
def judge (x oracle model : Word) : Verdict :=
  if isNanWord x then .skipped
  else if (isNanWord oracle && isNanWord model) || oracle == model then .agrees
  else .differs

/-- The host's counters over a run (R84, R75). -/
structure Tally where
  skipped  : Nat
  compared : Nat
  failures : Nat
deriving DecidableEq, Repr

/-- A verdict is counted; a mismatch never stops the run (R75, R84). -/
def Tally.add (t : Tally) (v : Verdict) : Tally :=
  match v with
  | .skipped => { t with skipped := t.skipped + 1 }
  | .agrees => { t with compared := t.compared + 1 }
  | .differs => { t with compared := t.compared + 1, failures := t.failures + 1 }

end Sys2Proof.Machine
end

