-- ==== Sys2Proof/Machine/Rsqrte.lean ====
section
/-!
DEFINITION. Sys2Proof/Machine/Rsqrte.lean: the block's function in one piece, as R1 and R53 give it, and the extractor's as R49 gives it: what the
statements compare the instructions with.
-/

namespace Sys2Proof.Machine

/-- RSQRTE(X), in the order and the words of R53. It answers none only where the entry read from the ROM has no mantissa contribution (U6). -/
def rsqrte (rom : CalTable) (x : Word) : Option Word :=
  let sg := signOf x
  let e := expOf x
  let m := mantOf x
  if e = 0 ∧ m = 0 then some (if sg = 1 then 0xFFF0000000000000 else 0x7FF0000000000000)
  else if e = 0x7FF ∧ m = 0 then some (if sg = 1 then Params.defaultQnan else 0x0000000000000000)
  else if e = 0x7FF then some (x ||| Params.quietBit)
  else if sg = 1 then some Params.defaultQnan
  else
    let n : Int × MantField := if e = 0 then normalizeMant m else ((e.toNat : Int), m)
    let entry := calRead rom (tableIndex n.1 n.2)
    (mantContribution entry (fineIndex n.2)).map fun frac => resultByShifts sg (outExponent n.1) frac

/-- EXTRACT(x): the fields and the class (R49). -/
def extractOf (x : Word) : Extracted := ⟨signOf x, expOf x, mantOf x, classOf x⟩

end Sys2Proof.Machine
end

