-- ==== Sys2Proof/Safety.lean ====
section
/-!
DEFINITION. Sys2Proof/Safety.lean: what claims are stated in: the property of the ROM that R47 asks a model to assume, the
invariant of a state, and the output of a unit.
-/

namespace Sys2Proof.Machine

/-- The property of R47: every point of every entry's line lies strictly between 0 and 2^26. -/
def TableOk (rom : CalTable) : Prop :=
  ∀ (idx : RomIndex) (fine : Nat), fine < 2048 →
    0 < ((calRead rom idx).base.toNat : Int) - (calRead rom idx).dec.toNat * fine ∧
    ((calRead rom idx).base.toNat : Int) - (calRead rom idx).dec.toNat * fine < 2 ^ 26

/-- The invariant of a state: the ROM has the property of R47, and each unit's outputs are its function of the operand at its input, or hold no value
together with it (R9, R10, R11, R18, R19); the host has read a value only if Y holds one. -/
structure State.Inv (s : State) : Prop where
  table     : TableOk s.rom
  top       : s.y = s.x.bind (rsqrte s.rom)
  extractor : s.exOut = s.exIn.map extractOf
  lookup    : s.lkOut = s.lkIn.map (calRead s.rom)
  read      : s.hostRead.isSome → s.y.isSome

/-- A value at a unit's output ports (R9, R10, R11). -/
inductive UnitOutput where
  | word (v : Word)
  | fields (o : Extracted)
  | entry (c : CalEntry)
deriving DecidableEq, Repr

/-- What a unit's output ports carry. -/
def State.outputOf (s : State) (u : BlockUnit) : Option UnitOutput :=
  match u with
  | .top => s.y.map .word
  | .extractor => s.exOut.map .fields
  | .calibration => s.lkOut.map .entry

/-- The next state an outcome answers, if it answers one. -/
def nextOf (o : Host.Outcome State Fault Refusal) : Option State :=
  match o with
  | .next t => some t
  | .fault _ => none
  | .refused _ => none

end Sys2Proof.Machine
end

