-- ==== Sys2Proof/Certificates/Slice0/Obligations.lean ====
section
/-!
DEFINITION. Sys2Proof/Certificates/Slice0/Obligations.lean: the statements for the provers. The values of CAL_TABLE, DEFAULT_QNAN and the quiet bit are the spec's own
from general knowledge (log entries 5, 6, 7): a statement on the arithmetic path takes the property of R47 as the premise `TableOk`. Where a statement says that
exec changes nothing else, that the ports of the OTHER units stand as they were is the model's choice (log entry 4), and no rule's.
-/

open Sys2Proof Sys2Proof.Machine

/-! ### Encoding -/

/-- Decoding the operand word of a well-formed instruction gives it back, with every field at every value its class admits (R38, R41). -/
def Obligations.DecodeOfEncode : Prop :=
  ∀ i : Instr, i.wellFormed = true → decode (encode i) = some i

/-- What a transaction decodes to is well formed, and its encoding is that transaction: no operand bit is dropped (R32, R38, R41). -/
def Obligations.EncodeOfDecode : Prop :=
  ∀ (t : Transaction) (i : Instr), decode t = some i → i.wellFormed = true ∧ encode i = t

/-- Words written out from the encodings of the spec (R31, R35, R38, R49, R50): one for each row of the opcode table. -/
def Obligations.KnownWordsDecode : Prop :=
  decode (.rsqrte 0x8000000000000000) = some (.rsqrteZero 1) ∧
  decode (.rsqrte 0x7FF0000000000000) = some .rsqrtePinf ∧
  decode (.rsqrte 0xFFF0000000000000) = some .rsqrteNinf ∧
  decode (.rsqrte 0xFFF0000000000001) = some (.rsqrteNan 1 1) ∧
  decode (.rsqrte 0x8000000000000001) = some (.rsqrteNeg 0 1) ∧
  decode (.rsqrte 0x000FFFFFFFFFFFFF) = some (.rsqrteDenorm 0xFFFFFFFFFFFFF) ∧
  decode (.rsqrte 0x4008000000000000) = some (.rsqrteNorm 0x400 0x8000000000000) ∧
  decode (.extract 0x4008000000000000) = some (.extract 0x4008000000000000) ∧
  decode (.lookup 0x10) = some (.lookup 16)

/-- The mask-and-match rows of R38 and the field tests of R50 are the same decode, on every pattern; so exactly one class is decoded for each. -/
def Obligations.RowDecodeIsFieldClass : Prop :=
  ∀ x : Word, rowClass x = some (classOf x)

/-- R39, R73: every 64-bit operand of RSQRTE and EXTRACT and every 5-bit index of LOOKUP is legal: it decodes, and the operation answers a next state,
with any ROM of the property of R47. -/
def Obligations.EveryTransactionCompletes : Prop :=
  ∀ (t : Transaction) (s : State), TableOk s.rom →
    ∃ (i : Instr) (u : State), decode t = some i ∧ exec i (s.present t) = .next u ∧ runTransaction t s = .next u

/-- R51, R54: a NaN with the sign bit set is NAN and not NEG, since the exponent is tested first; a negative denormal is NEG and not DENORM, since the
sign is tested before; both zeros are ZERO. -/
def Obligations.ClassTestOrder : Prop :=
  (∀ (sg : SignBit) (m : MantField), m ≠ 0 → decode (.rsqrte (assemble sg 0x7FF m)) = some (.rsqrteNan sg m)) ∧
  (∀ m : MantField, m ≠ 0 → decode (.rsqrte (assemble 1 0 m)) = some (.rsqrteNeg 0 m)) ∧
  (∀ (e : ExpField) (m : MantField), e ≠ 0 → e ≠ 0x7FF → decode (.rsqrte (assemble 1 e m)) = some (.rsqrteNeg e m)) ∧
  (∀ sg : SignBit, decode (.rsqrte (assemble sg 0 0)) = some (.rsqrteZero sg))

/-! ### The sub-blocks -/

/-- R48: EXTRACT completes on every pattern, with s = x[63], e = x[62:52] and m = x[51:0] as unsigned numbers at its outputs, which together are x
again, and changes nothing else. That exec leaves the other units' ports as they were is the model's choice and no rule's, log entry 4 (DESIGN
CHOICE). -/
def Obligations.ExtractDrivesFields : Prop :=
  ∀ (x : Word) (s : State), ∃ o : Extracted,
    exec (.extract x) s = .next { s with exOut := some o } ∧
    o.sg.toNat = x.toNat / 2 ^ 63 ∧
    o.e.toNat = x.toNat / 2 ^ 52 % 2 ^ 11 ∧
    o.m.toNat = x.toNat % 2 ^ 52 ∧
    o.sg.toNat * 2 ^ 63 + o.e.toNat * 2 ^ 52 + o.m.toNat = x.toNat

/-- R49, R50: the class EXTRACT drives, case by case over the fields it drives, with exactly one class line at 1. That exec leaves the other units'
ports as they were is the model's choice and no rule's, log entry 4 (DESIGN CHOICE). -/
def Obligations.ExtractDrivesClass : Prop :=
  ∀ (x : Word) (s : State), ∃ o : Extracted,
    exec (.extract x) s = .next { s with exOut := some o } ∧
    (o.e = 0 ∧ o.m = 0 → o.cls = .zero ∧ (classLines o.cls).isZero = true) ∧
    (o.e = 0x7FF ∧ o.m = 0 ∧ o.sg = 0 → o.cls = .pinf ∧ (classLines o.cls).isPinf = true) ∧
    (o.e = 0x7FF ∧ o.m = 0 ∧ o.sg = 1 → o.cls = .ninf ∧ (classLines o.cls).isNinf = true) ∧
    (o.e = 0x7FF ∧ o.m ≠ 0 → o.cls = .nan ∧ (classLines o.cls).isNan = true) ∧
    (o.sg = 1 ∧ o.e ≠ 0x7FF ∧ ¬(o.e = 0 ∧ o.m = 0) → o.cls = .neg ∧ (classLines o.cls).isNeg = true) ∧
    (o.sg = 0 ∧ o.e = 0 ∧ o.m ≠ 0 → o.cls = .denorm ∧ (classLines o.cls).isDenorm = true) ∧
    (o.sg = 0 ∧ o.e ≠ 0 ∧ o.e ≠ 0x7FF → o.cls = .norm ∧ (classLines o.cls).isNorm = true) ∧
    (classLines o.cls).toList.count true = 1

/-- R32: the fields EXTRACT drives, put together again, are the operand exactly. That exec leaves the other units' ports as they were is the model's
choice and no rule's, log entry 4 (DESIGN CHOICE). -/
def Obligations.ExtractIsLossless : Prop :=
  ∀ (x : Word) (s : State), ∃ o : Extracted,
    exec (.extract x) s = .next { s with exOut := some o } ∧ o.sg ++ o.e ++ o.m = x

/-- R45: LOOKUP completes on every index, with the base and the decrement of that entry of the ROM at its outputs, and changes nothing else. That exec
leaves the other units' ports as they were is the model's choice and no rule's, log entry 4 (DESIGN CHOICE). -/
def Obligations.LookupReturnsEntry : Prop :=
  ∀ (idx : RomIndex) (s : State),
    exec (.lookup idx) s = .next { s with lkOut := some ⟨(s.rom[idx.toFin]).base, (s.rom[idx.toFin]).dec⟩ }

/-- R22: whatever instruction ran before it, LOOKUP of an index gives the same whole entry. That exec leaves the other units' ports as they were is
the model's choice and no rule's, log entry 4 (DESIGN CHOICE). -/
def Obligations.LookupUnchangedByHistory : Prop :=
  ∀ (i : Instr) (k : RomIndex) (s t : State), exec i s = .next t →
    exec (.lookup k) t = .next { t with lkOut := some (calRead s.rom k) }

/-! ### The special cases -/

/-- R56: an operand that row RSQRTE.ZERO matches gives the infinity with its sign, and nothing else changes, whatever the ROM and the state. That exec
leaves the other units' ports as they were is the model's choice and no rule's, log entry 4 (DESIGN CHOICE). -/
def Obligations.ZeroGivesSignedInfinity : Prop :=
  ∀ (x : Word) (s : State), x &&& 0x7FFFFFFFFFFFFFFF = 0x0000000000000000 →
    decode (.rsqrte x) = some (.rsqrteZero (signOf x)) ∧
    exec (.rsqrteZero (signOf x)) s =
      .next { s with y := some (if x.getLsbD 63 then 0xFFF0000000000000 else 0x7FF0000000000000) }

/-- R57: +infinity gives +0.0, and nothing else changes. That exec leaves the other units' ports as they were is the model's choice and no rule's, log
entry 4 (DESIGN CHOICE). -/
def Obligations.PosInfinityGivesPosZero : Prop :=
  ∀ s : State, decode (.rsqrte 0x7FF0000000000000) = some .rsqrtePinf ∧
    exec .rsqrtePinf s = .next { s with y := some 0x0000000000000000 }

/-- R58: -infinity gives DEFAULT_QNAN, a quiet NaN, and nothing else changes. The pattern is the spec's own (D5, log entry 6). That exec leaves the
other units' ports as they were is the model's choice and no rule's, log entry 4 (DESIGN CHOICE). -/
def Obligations.NegInfinityGivesDefaultNan : Prop :=
  ∀ s : State, decode (.rsqrte 0xFFF0000000000000) = some .rsqrteNinf ∧
    exec .rsqrteNinf s = .next { s with y := some Params.defaultQnan } ∧ isQuietNanWord Params.defaultQnan = true

/-- R60: every negative operand that is no zero, infinity or NaN gives DEFAULT_QNAN, and nothing else changes. The pattern is the spec's own (D5, log
entry 6). That exec leaves the other units' ports as they were is the model's choice and no rule's, log entry 4 (DESIGN CHOICE). -/
def Obligations.NegativeGivesDefaultNan : Prop :=
  ∀ (x : Word) (s : State), signOf x = 1 → expOf x ≠ 0x7FF → ¬(expOf x = 0 ∧ mantOf x = 0) →
    decode (.rsqrte x) = some (.rsqrteNeg (expOf x) (mantOf x)) ∧
    exec (.rsqrteNeg (expOf x) (mantOf x)) s = .next { s with y := some Params.defaultQnan }

/-- R59: a NaN operand comes out with bit 51 set and every other bit kept, its sign too, and a quiet NaN unchanged; nothing else changes. That the
quiet bit is bit 51 and that the sign is kept are the spec's own (GK3, D13, log entry 7). That exec leaves the other units' ports as they were is the
model's choice and no rule's, log entry 4 (DESIGN CHOICE). -/
def Obligations.NanIsQuieted : Prop :=
  ∀ (x : Word) (s : State), expOf x = 0x7FF → mantOf x ≠ 0 →
    decode (.rsqrte x) = some (.rsqrteNan (signOf x) (mantOf x)) ∧
    ∃ v : Word, exec (.rsqrteNan (signOf x) (mantOf x)) s = .next { s with y := some v } ∧
      v.getLsbD 51 = true ∧ (∀ k, k ≠ 51 → v.getLsbD k = x.getLsbD k) ∧ (x.getLsbD 51 = true → v = x)

/-- R23, C5: on a special case the result is one value whatever the state holds, the ROM included: no entry is read. That exec leaves the other units'
ports as they were is the model's choice and no rule's, log entry 4 (DESIGN CHOICE). -/
def Obligations.SpecialCasesReadNoRom : Prop :=
  ∀ (i : Instr) (x : Word), i.wellFormed = true → encode i = .rsqrte x → classOf x ≠ .denorm → classOf x ≠ .norm →
    ∃ v : Word, ∀ s : State, exec i s = .next { s with y := some v }

/-! ### The arithmetic path -/

/-- R70: RSQRTE of a positive normal number, in numbers: the entry at index `m[51:48] + 16` (or without the 16 for an odd exponent), the point of its
line at `m[47:37]`, and the output exponent `(3068 - e) >> 1` above it; nothing else changes. The exponent's formula is the spec's reading (D12, log
entry 8). That exec leaves the other units' ports as they were is the model's choice and no rule's, log entry 4 (DESIGN CHOICE). -/
def Obligations.NormResult : Prop :=
  ∀ (e : ExpField) (m : MantField) (s : State), e ≠ 0 → e ≠ 0x7FF → TableOk s.rom →
    ∃ (idx : RomIndex) (v : Word),
      idx.toNat = m.toNat / 2 ^ 48 + (if e.toNat % 2 = 0 then 16 else 0) ∧
      exec (.rsqrteNorm e m) s = .next { s with y := some v } ∧
      (v.toNat : Int) = (3068 - (e.toNat : Int)) / 2 * 2 ^ 52 +
        (((calRead s.rom idx).base.toNat : Int) - (calRead s.rom idx).dec.toNat * (m.toNat / 2 ^ 37 % 2048 : Nat)) * 2 ^ 26

/-- R61, R62: RSQRTE of a positive denormal, in numbers: with p the place of the mantissa's highest 1 bit, the exponent is p - 51 and the mantissa
loses that bit, and then as for a normal number; nothing else changes. The re-bias and the exponent's formula are the spec's reading (log entries 8
and 10). That exec leaves the other units' ports as they were is the model's choice and no rule's, log entry 4 (DESIGN CHOICE). -/
def Obligations.DenormResult : Prop :=
  ∀ (m : MantField) (s : State), m ≠ 0 → TableOk s.rom →
    ∃ (E : Int) (m' : Nat) (idx : RomIndex) (v : Word),
      E = (Nat.log2 m.toNat : Int) - 51 ∧
      m' = m.toNat * 2 ^ (52 - Nat.log2 m.toNat) % 2 ^ 52 ∧
      idx.toNat = m' / 2 ^ 48 + (if E % 2 = 0 then 16 else 0) ∧
      exec (.rsqrteDenorm m) s = .next { s with y := some v } ∧
      (v.toNat : Int) = (3068 - E) / 2 * 2 ^ 52 +
        (((calRead s.rom idx).base.toNat : Int) - (calRead s.rom idx).dec.toNat * (m' / 2 ^ 37 % 2048 : Nat)) * 2 ^ 26

/-- R62: normalization gives an equivalent pair, m * 2^-1074 = 2^(E-1023) * (1 + m'/2^52) cleared of its denominators, with -51 <= E <= 0. -/
def Obligations.NormalizeKeepsValue : Prop :=
  ∀ m : MantField, m ≠ 0 →
    -51 ≤ (normalizeMant m).1 ∧ (normalizeMant m).1 ≤ 0 ∧
    m.toNat * 2 ^ (1 - (normalizeMant m).1).toNat = 2 ^ 52 + (normalizeMant m).2.toNat

/-- R90, R62: the normalization loop stops by its own test within 52 rounds: with more rounds allowed it does the same, and it ends with bit 52 as the
highest 1 bit. -/
def Obligations.NormalizeLoopBounded : Prop :=
  ∀ (m : MantField) (fuel : Nat), m ≠ 0 → 52 ≤ fuel →
    normalizeLoop fuel 0 m.toNat = normalizeLoop 52 0 m.toNat ∧
    (normalizeLoop 52 0 m.toNat).2.testBit 52 = true ∧ (normalizeLoop 52 0 m.toNat).2 < 2 ^ 53

/-- R65, R55: on every working exponent that occurs, the output exponent is the field-position form and `1023 - ceil((E - 1022) / 2)`, and lies in
511..1559. The formula is the spec's reading (D12, log entry 8). -/
def Obligations.OutExponentForms : Prop :=
  ∀ E : Int, -51 ≤ E → E ≤ 2046 →
    outExponent E = outExponentAtField E ∧
    ((outExponent E).toNat : Int) = 1023 - -(-(E - 1022) / 2) ∧
    511 ≤ (outExponent E).toNat ∧ (outExponent E).toNat ≤ 1559

/-- R64: the odd-exponent flag is set exactly when the unbiased exponent is odd, for exponents of either sign, and is the complement of the exponent's
lowest bit in two's complement. -/
def Obligations.OddFlagIsUnbiasedParity : Prop :=
  ∀ E : Int, (oddFlag E = true ↔ (E - 1023) % 2 = 1) ∧ (BitVec.ofInt 13 E).getLsbD 0 = !oddFlag E

/-- R35: bit 4 of the table index is the odd-exponent flag, its low four bits are the mantissa's top four, and it is their sum, which never wraps. -/
def Obligations.TableIndexLayout : Prop :=
  ∀ (E : Int) (m : MantField),
    (tableIndex E m).getLsbD 4 = oddFlag E ∧
    (tableIndex E m).extractLsb' 0 4 = m.extractLsb' 48 4 ∧
    (tableIndex E m).toNat = 16 * (if oddFlag E then 1 else 0) + (m.extractLsb' 48 4).toNat

/-- R66: the mantissa index is m[51:37], at most 32767; the coarse index is m[51:48] and the fine index m[47:37]. -/
def Obligations.MantissaIndexSlices : Prop :=
  ∀ m : MantField,
    mantIndex m = (m.extractLsb' 37 15).toNat ∧ mantIndex m ≤ 32767 ∧
    coarseIndex m = (m.extractLsb' 48 4).toNat ∧ fineIndex m = (m.extractLsb' 37 11).toNat

/-- R36: mantissa bits 36:0 of a normal operand take no part in what RSQRTE does. -/
def Obligations.LowMantissaBitsIgnored : Prop :=
  ∀ (e : ExpField) (m m' : MantField) (s : State), m.extractLsb' 37 15 = m'.extractLsb' 37 15 →
    exec (.rsqrteNorm e m) s = exec (.rsqrteNorm e m') s

/-- R33, R69: the result by concatenation is the result by shifts and bitwise or, with bits 25:0 zero. -/
def Obligations.ResultLayout : Prop :=
  ∀ (sg : SignBit) (eo : ExpField) (frac : BitVec 26),
    resultWord sg eo frac = resultByShifts sg eo frac ∧
    (resultWord sg eo frac).toNat = sg.toNat * 2 ^ 63 + eo.toNat * 2 ^ 52 + frac.toNat * 2 ^ 26

/-- R47: the values of CAL_TABLE keep every point of every entry's line between 523 and 0x3FFA000, both of which occur. The values are the spec's own
(D3, log entry 5). -/
def Obligations.CalTableInRange : Prop :=
  TableOk Params.calTable ∧
  (∀ (idx : RomIndex) (fine : Nat), fine < 2048 →
    523 ≤ ((calRead Params.calTable idx).base.toNat : Int) - (calRead Params.calTable idx).dec.toNat * fine ∧
    ((calRead Params.calTable idx).base.toNat : Int) - (calRead Params.calTable idx).dec.toNat * fine ≤ 0x3FFA000) ∧
  ((calRead Params.calTable 31).base.toNat : Int) - (calRead Params.calTable 31).dec.toNat * 2047 = 523 ∧
  (calRead Params.calTable 0).base.toNat = 0x3FFA000

/-- R71: on the arithmetic path the result is a positive normal number with its exponent in 511..1559 and bits 25:0 zero. That exec leaves the other
units' ports as they were is the model's choice and no rule's, log entry 4 (DESIGN CHOICE). -/
def Obligations.ArithResultIsPositiveNormal : Prop :=
  ∀ (i : Instr) (s : State), i.wellFormed = true → TableOk s.rom →
    ((∃ m, i = .rsqrteDenorm m) ∨ (∃ e m, i = .rsqrteNorm e m)) →
    ∃ v : Word, exec i s = .next { s with y := some v } ∧ isPosNormalWord v = true ∧
      511 ≤ (expOf v).toNat ∧ (expOf v).toNat ≤ 1559 ∧ v.toNat % 2 ^ 26 = 0

/-- R23: the arithmetic path reads one entry: a ROM that agrees on that entry gives the same result. That exec leaves the other units' ports as they
were is the model's choice and no rule's, log entry 4 (DESIGN CHOICE). -/
def Obligations.ArithReadsOneEntry : Prop :=
  (∀ (e : ExpField) (m : MantField) (s : State) (r : CalTable) (v : Word),
    calRead r (tableIndex e.toNat m) = calRead s.rom (tableIndex e.toNat m) →
    exec (.rsqrteNorm e m) s = .next { s with y := some v } →
    exec (.rsqrteNorm e m) { s with rom := r } = .next { s with rom := r, y := some v }) ∧
  (∀ (m : MantField) (s : State) (r : CalTable) (v : Word),
    calRead r (tableIndex (normalizeMant m).1 (normalizeMant m).2) = calRead s.rom (tableIndex (normalizeMant m).1 (normalizeMant m).2) →
    exec (.rsqrteDenorm m) s = .next { s with y := some v } →
    exec (.rsqrteDenorm m) { s with rom := r } = .next { s with rom := r, y := some v })

/-- 95_test_vectors.md S7: each of the 32 entries is the one some normal operand reads. -/
def Obligations.EveryEntryIsReached : Prop :=
  ∀ k : RomIndex, ∃ (e : ExpField) (m : MantField), (Instr.rsqrteNorm e m).wellFormed = true ∧ tableIndex e.toNat m = k

/-- U6: the arithmetic path is refused exactly where the entry read has `base - dec * fine` below zero, which no entry with the property of R47 has
(log entry 11). -/
def Obligations.BrokenEntryIsRefused : Prop :=
  (∀ (e : ExpField) (m : MantField) (s : State),
    exec (.rsqrteNorm e m) s = .refused .calTableOutOfRange ↔
      (calRead s.rom (tableIndex e.toNat m)).base.toNat < (calRead s.rom (tableIndex e.toNat m)).dec.toNat * fineIndex m) ∧
  (∀ (m : MantField) (s : State),
    exec (.rsqrteDenorm m) s = .refused .calTableOutOfRange ↔
      (calRead s.rom (tableIndex (normalizeMant m).1 (normalizeMant m).2)).base.toNat <
        (calRead s.rom (tableIndex (normalizeMant m).1 (normalizeMant m).2)).dec.toNat * fineIndex (normalizeMant m).2)

/-! ### The result over all operands -/

/-- R53: a step in which the host presents any operand to RSQRTE takes it to X and drives Y with the whole function of R53, class by class and in its
order; the sub-blocks' ports carry nothing afterwards (the model's choice, log entry 4), and the ROM and the host's register stay. -/
def Obligations.StepComputesRsqrte : Prop :=
  ∀ (s : State) (x : Word) (rest : List HostAction), TableOk s.rom → s.host = .present (.rsqrte x) :: rest →
    ∃ v : Word, rsqrte s.rom x = some v ∧
      step s = .next { s with host := rest, x := some x, y := some v, exIn := none, exOut := none, lkIn := none, lkOut := none }

/-- R1, R18: for a ROM with the property of R47 there is one total function from operands to results that RSQRTE computes in every state. -/
def Obligations.RsqrteIsTotalFunction : Prop :=
  ∀ rom : CalTable, TableOk rom → ∃ f : Word → Word,
    (∀ x, rsqrte rom x = some (f x)) ∧
    ∀ (s : State) (x : Word), s.rom = rom → ∃ t : State, runTransaction (.rsqrte x) s = .next t ∧ t.y = some (f x)

/-- R71: the result is a NaN exactly for the classes NAN, NINF and NEG, an infinity exactly for ZERO, and a zero exactly for PINF. That the
sub-blocks' ports carry nothing afterwards is the model's choice and no rule's, log entry 4 (DESIGN CHOICE). -/
def Obligations.ResultKindByClass : Prop :=
  ∀ (x : Word) (s : State), TableOk s.rom →
    ∃ v : Word, runTransaction (.rsqrte x) s = .next { s.releaseSubBlocks with x := some x, y := some v } ∧
      (isNanWord v = true ↔ classOf x = .nan ∨ classOf x = .ninf ∨ classOf x = .neg) ∧
      (isInfWord v = true ↔ classOf x = .zero) ∧
      (isZeroWord v = true ↔ classOf x = .pinf)

/-- R72: the only NaN results are DEFAULT_QNAN and the operand with its quiet bit set, both quiet, and no result is a denormal. The pattern and the
bit are the spec's own (log entries 6 and 7). That the sub-blocks' ports carry nothing afterwards is the model's choice and no rule's, log entry 4
(DESIGN CHOICE). -/
def Obligations.NanAndDenormalOutputs : Prop :=
  ∀ (x : Word) (s : State), TableOk s.rom →
    ∃ v : Word, runTransaction (.rsqrte x) s = .next { s.releaseSubBlocks with x := some x, y := some v } ∧
      (isNanWord v = true → (v = Params.defaultQnan ∨ v = x ||| Params.quietBit) ∧ isQuietNanWord v = true) ∧
      ¬(expOf v = 0 ∧ mantOf v ≠ 0)

/-! ### The machine -/

/-- When the host presents a transaction that decodes, the step is exec of that instruction, with the operand at the unit's input, every port of a
sub-block but that input without a value (log entry 4), and the host's action taken off its list (R82; the list is the model's own, log entry 1). -/
def Obligations.StepRunsDecodedInstruction : Prop :=
  ∀ (s : State) (t : Transaction) (i : Instr) (rest : List HostAction), s.host = .present t :: rest → decode t = some i →
    step s = exec i (({ s with host := rest } : State).present t)

/-- The block does nothing until the host asks for something (R12, R82; the model's choice, log entry 1). That an idle step leaves the sub-blocks'
ports is the model's choice, log entry 4 (DESIGN CHOICE). -/
def Obligations.IdleStepChangesNothing : Prop :=
  ∀ s : State, s.host = [] → step s = .next s

/-- R19, R82: the host's read of Y faults while Y holds no value, and afterwards gets the value Y holds (decision D8; the host's own register is the
model's, log entry 2). That a read leaves the sub-blocks' ports is the model's choice, log entry 4 (DESIGN CHOICE). -/
def Obligations.ReadOfResultPort : Prop :=
  ∀ (s : State) (rest : List HostAction), s.host = .readY :: rest →
    (s.y = none → step s = .fault .readBeforeResult) ∧
    (∀ v, s.y = some v → step s = .next { s with host := rest, hostRead := some v })

/-- What exec of an instruction changes: RSQRTE of any class the port Y, EXTRACT the extractor's outputs, LOOKUP the lookup unit's. No flag (R14), no
internal value (R17) and no ROM entry (R30) is written. DESIGN CHOICE of the model, log entry 4, and no rule's: that the ports of the OTHER units
stand as they were during the operation; at the next transaction the host presents, those of the sub-blocks lose their values (OnlyXAndYAreKept). -/
def Obligations.OneOutputPerInstruction : Prop :=
  ∀ (i : Instr) (s t : State), exec i s = .next t →
    t = match (encode i).drives with
      | .top => { s with y := t.y }
      | .extractor => { s with exOut := t.exOut }
      | .calibration => { s with lkOut := t.lkOut }

/-- R16, R30: no step writes the ROM. -/
def Obligations.RomIsNeverWritten : Prop :=
  ∀ s t : State, step s = .next t → t.rom = s.rom

/-- R29: two transactions give the same results in either order, each read at its unit's outputs right after it; and where they drive different units,
X, Y, the ROM and the host's side are the same in the end. The last clause rests on X and Y keeping their values across another unit's operation,
which is the model's choice with R13 (log entry 4, DESIGN CHOICE), and not on R29. -/
def Obligations.OrderDoesNotMatter : Prop :=
  ∀ (a b : Transaction) (s : State), TableOk s.rom →
    ∃ sa sab sb sba : State,
      runTransaction a s = .next sa ∧ runTransaction b sa = .next sab ∧
      runTransaction b s = .next sb ∧ runTransaction a sb = .next sba ∧
      sa.outputOf a.drives = sba.outputOf a.drives ∧ sb.outputOf b.drives = sab.outputOf b.drives ∧
      (a.drives ≠ b.drives → sab.releaseSubBlocks = sba.releaseSubBlocks)

/-- R73, R39, R19: with a ROM of the property of R47, a step answers a next state, but for one case: the host reads Y while it holds no value. -/
def Obligations.StepStopsOnlyOnEarlyRead : Prop :=
  ∀ s : State, TableOk s.rom →
    (∃ t, step s = .next t) ∨
    (step s = .fault .readBeforeResult ∧ s.y = none ∧ s.host.head? = some .readY)

/-- Every step keeps the invariant: the ROM's property, each unit's outputs the function of the operand at its input (R9, R10, R11, R18), and no read
without a result (R19). How long the ports carry a value is the model's choice, log entry 4 (DESIGN CHOICE). -/
def Obligations.StepKeepsInv : Prop :=
  ∀ s t : State, s.Inv → step s = .next t → t.Inv

/-- The invariant holds right after reset (R20, R86; the ROM's values are the spec's own, log entry 5). -/
def Obligations.ResetHasInv : Prop :=
  State.reset.Inv

/-- R20, R86, R87: after reset the ROM holds CAL_TABLE and no port holds a value, and the first transaction that is presented completes. -/
def Obligations.ResetHoldsOnlyTheRom : Prop :=
  State.reset.rom = Params.calTable ∧ State.reset.x = none ∧ State.reset.y = none ∧ State.reset.exIn = none ∧
  State.reset.exOut = none ∧ State.reset.lkIn = none ∧ State.reset.lkOut = none ∧
  ∀ t : Transaction, ∃ u, step (State.reset.placeFirst t) = .next u

/-- R84: a sample counts as a mismatch exactly when it is no NaN, the two results differ in some bit, and they are not both NaNs. It describes the
host. -/
def Obligations.HarnessJudgement : Prop :=
  ∀ x oracle model : Word,
    (judge x oracle model = .skipped ↔ isNanWord x = true) ∧
    (judge x oracle model = .differs ↔
      isNanWord x = false ∧ oracle ≠ model ∧ ¬(isNanWord oracle = true ∧ isNanWord model = true))

/-- A bare word of the opcode table, placed first, is what the next step runs (the model's choice, log entries 13 and 14). -/
def Obligations.TableWordRunsFirst : Prop :=
  ∀ (s : State) (nbits w : Nat) (t : Transaction), tableTransaction nbits w = some t →
    step (s.withFetchWord nbits w) = runTransaction t s

/-- R13: X and Y are the only data registers. What a transaction leaves does not depend on what the sub-blocks' ports carry before it; after it a
sub-block that it does not drive carries nothing; and an EXTRACT or a LOOKUP leaves X and Y as they were. When a sub-block's ports lose their values
is the model's choice, log entry 4. -/
def Obligations.OnlyXAndYAreKept : Prop :=
  ∀ (t : Transaction) (s : State),
    (∀ (xi : Option Word) (xo : Option Extracted) (li : Option RomIndex) (lo : Option CalEntry),
      runTransaction t { s with exIn := xi, exOut := xo, lkIn := li, lkOut := lo } = runTransaction t s) ∧
    ∀ u : State, runTransaction t s = .next u →
      (t.drives ≠ .extractor → u.exIn = none ∧ u.exOut = none) ∧
      (t.drives ≠ .calibration → u.lkIn = none ∧ u.lkOut = none) ∧
      (t.drives ≠ .top → u.x = s.x ∧ u.y = s.y)

/-- R32, R48: Fields(x) is s = x[63], e = x[62:52] and m = x[51:0] as unsigned numbers, and `s {e} {m}` is x again. -/
def Obligations.FieldsAreLossless : Prop :=
  ∀ x : Word,
    (signOf x).toNat = x.toNat / 2 ^ 63 ∧
    (expOf x).toNat = x.toNat / 2 ^ 52 % 2 ^ 11 ∧
    (mantOf x).toNat = x.toNat % 2 ^ 52 ∧
    signOf x ++ expOf x ++ mantOf x = x
end

