-- ==== Sys2Proof/Laws/Fields.lean ====
section
/-!
SUPPORT. Sys2Proof/Laws/Fields.lean: what the fields of an assembled pattern are, field-wise masking, and the mantissa's index fields.
-/

namespace Sys2Proof.Machine

theorem getLsbD_assemble (sg : SignBit) (e : ExpField) (m : MantField) (k : Nat) :
    (assemble sg e m).getLsbD k =
      if k < 52 then m.getLsbD k else if k < 63 then e.getLsbD (k - 52) else sg.getLsbD (k - 63) := by
  simp only [assemble, BitVec.getLsbD_append]
  by_cases h : k < 52
  · simp [h]
  · by_cases h' : k < 63
    · simp [h, h', show k - 52 < 11 by omega]
    · simp [h, h', show ¬ k - 52 < 11 by omega, show k - 52 - 11 = k - 63 by omega]

@[simp] theorem signOf_assemble (sg : SignBit) (e : ExpField) (m : MantField) : signOf (assemble sg e m) = sg := by
  apply BitVec.eq_of_getLsbD_eq
  intro k hk
  obtain rfl : k = 0 := by omega
  simp only [signOf, BitVec.getLsbD_extractLsb', getLsbD_assemble]
  simp

@[simp] theorem expOf_assemble (sg : SignBit) (e : ExpField) (m : MantField) : expOf (assemble sg e m) = e := by
  apply BitVec.eq_of_getLsbD_eq
  intro k hk
  simp [expOf, getLsbD_assemble, hk, show 52 + k < 63 by omega]

@[simp] theorem mantOf_assemble (sg : SignBit) (e : ExpField) (m : MantField) : mantOf (assemble sg e m) = m := by
  apply BitVec.eq_of_getLsbD_eq
  intro k hk
  simp [mantOf, getLsbD_assemble, hk]

/-- The three fields determine the pattern. -/
theorem eq_of_fields_eq {x x' : Word} (hs : signOf x = signOf x') (he : expOf x = expOf x') (hm : mantOf x = mantOf x') : x = x' := by
  apply BitVec.eq_of_getLsbD_eq
  intro k hk
  by_cases h : k < 52
  · have := congrArg (·.getLsbD k) hm
    simpa [mantOf, h] using this
  · by_cases h' : k < 63
    · have := congrArg (·.getLsbD (k - 52)) he
      simpa [expOf, show k - 52 < 11 by omega, show 52 + (k - 52) = k by omega] using this
    · have := congrArg (·.getLsbD (k - 63)) hs
      simpa [signOf, show k = 63 by omega] using this

@[simp] theorem signOf_and (x y : Word) : signOf (x &&& y) = signOf x &&& signOf y := by
  apply BitVec.eq_of_getLsbD_eq; intro k hk; simp [signOf, hk]

@[simp] theorem expOf_and (x y : Word) : expOf (x &&& y) = expOf x &&& expOf y := by
  apply BitVec.eq_of_getLsbD_eq; intro k hk; simp [expOf, hk]

@[simp] theorem mantOf_and (x y : Word) : mantOf (x &&& y) = mantOf x &&& mantOf y := by
  apply BitVec.eq_of_getLsbD_eq; intro k hk; simp [mantOf, hk]

/-- Two patterns are equal exactly when their fields are. -/
theorem eq_iff_fields (x x' : Word) : x = x' ↔ signOf x = signOf x' ∧ expOf x = expOf x' ∧ mantOf x = mantOf x' :=
  ⟨fun h => by simp [h], fun ⟨a, b, c⟩ => eq_of_fields_eq a b c⟩

theorem mantIndex_lt (m : MantField) : mantIndex m < 32768 := by
  have := m.isLt
  simp only [mantIndex, Params.idxShift, Nat.shiftRight_eq_div_pow]
  omega

theorem coarseIndex_lt (m : MantField) : coarseIndex m < 16 := by
  have := mantIndex_lt m
  simp only [coarseIndex, Nat.shiftRight_eq_div_pow]
  omega

theorem fineIndex_lt (m : MantField) : fineIndex m < 2048 := Nat.mod_lt _ (by decide)

/-- The table index does not wrap: it is the coarse index, and 16 more for an even working exponent. -/
theorem tableIndex_toNat (E : Int) (m : MantField) :
    (tableIndex E m).toNat = coarseIndex m + if oddFlag E then 16 else 0 := by
  have := coarseIndex_lt m
  simp only [tableIndex, BitVec.toNat_ofNat]
  split <;> omega

end Sys2Proof.Machine
end

