-- ==== Sys2Proof/Laws/Arith.lean ====
section
/-!
SUPPORT. Sys2Proof/Laws/Arith.lean: what the operations of the arithmetic path do: the mantissa contribution, the result, and the path's outcome.
-/

namespace Sys2Proof.Machine

/-- Where the contribution is not negative it is `base - dec * fine`. -/
theorem mantContribution_of_le {c : CalEntry} {fine : Nat} (h : c.dec.toNat * fine ≤ c.base.toNat) :
    mantContribution c fine = some (BitVec.ofNat 26 (c.base.toNat - c.dec.toNat * fine)) := by
  simp [mantContribution, h]

/-- There is no contribution exactly where it would be negative. -/
theorem mantContribution_eq_none {c : CalEntry} {fine : Nat} :
    mantContribution c fine = none ↔ c.base.toNat < c.dec.toNat * fine := by
  simp [mantContribution]

/-- A contribution is the exact integer `base - dec * fine`: 26 bits hold it. -/
theorem mantContribution_toNat {c : CalEntry} {fine : Nat} {f : BitVec 26} (h : mantContribution c fine = some f) :
    (f.toNat : Int) = (c.base.toNat : Int) - c.dec.toNat * fine := by
  have hb := c.base.isLt
  unfold mantContribution at h
  split at h
  · obtain rfl := Option.some.inj h
    rw [BitVec.toNat_ofNat, Nat.mod_eq_of_lt (by omega)]
    push_cast [*]
    rfl
  · cases h

/-- An entry of a ROM with the property of R47 has a contribution at every fine index. -/
theorem TableOk.contribution {rom : CalTable} (h : TableOk rom) (idx : RomIndex) (m : MantField) :
    ∃ f, mantContribution (calRead rom idx) (fineIndex m) = some f ∧ 0 < f.toNat := by
  have hk := (h idx (fineIndex m) (fineIndex_lt m)).1
  have hle : (calRead rom idx).dec.toNat * fineIndex m ≤ (calRead rom idx).base.toNat := by
    have : (((calRead rom idx).dec.toNat * fineIndex m : Nat) : Int) < (calRead rom idx).base.toNat := by
      push_cast; omega
    omega
  refine ⟨_, mantContribution_of_le hle, ?_⟩
  have := mantContribution_toNat (mantContribution_of_le hle)
  omega

/-- With the contribution at hand, the arithmetic path drives Y with the result word and changes nothing else. -/
theorem arithPath_of_contribution {sg : SignBit} {E : Int} {m : MantField} {s : State} {f : BitVec 26}
    (h : mantContribution (calRead s.rom (tableIndex E m)) (fineIndex m) = some f) :
    arithPath sg E m s = .next (s.driveY (resultWord sg (outExponent E) f)) := by
  simp [arithPath, arithResult, h]

/-- The arithmetic path has two outcomes: Y is driven with the result word, or the entry read is refused. -/
theorem arithPath_cases (sg : SignBit) (E : Int) (m : MantField) (s : State) :
    (∃ f, mantContribution (calRead s.rom (tableIndex E m)) (fineIndex m) = some f ∧
      arithPath sg E m s = .next (s.driveY (resultWord sg (outExponent E) f))) ∨
    (mantContribution (calRead s.rom (tableIndex E m)) (fineIndex m) = none ∧
      arithPath sg E m s = .refused .calTableOutOfRange) := by
  cases h : mantContribution (calRead s.rom (tableIndex E m)) (fineIndex m) with
  | some f => exact .inl ⟨f, rfl, arithPath_of_contribution h⟩
  | none => exact .inr ⟨rfl, by simp [arithPath, arithResult, h]⟩

end Sys2Proof.Machine
end

