-- ==== Sys2Proof/Laws/PerInstr.lean ====
section
/-!
SUPPORT. Sys2Proof/Laws/PerInstr.lean: per instruction, the unit its encoding drives and the class of its operand word (R37, R38, R50).
-/

namespace Sys2Proof.Laws.OperandOfClass

open Sys2Proof Sys2Proof.Machine

/-- The operand class an RSQRTE instruction stands for; the sub-blocks' operations have none (R38, R49, R45). -/
def classOfInstr : Instr → Option OperandClass
  | .rsqrteZero _ => some .zero
  | .rsqrtePinf => some .pinf
  | .rsqrteNinf => some .ninf
  | .rsqrteNan _ _ => some .nan
  | .rsqrteNeg _ _ => some .neg
  | .rsqrteDenorm _ => some .denorm
  | .rsqrteNorm _ _ => some .norm
  | .extract _ => none
  | .lookup _ => none

/-- The operand of a well-formed RSQRTE instruction has, by its fields, the class the instruction stands for; the others drive their
own units. -/
def Statement (i : Instr) : Prop :=
  i.wellFormed = true →
    match encode i with
    | .rsqrte x => classOfInstr i = some (classOf x)
    | .extract x => i = .extract x
    | .lookup idx => i = .lookup idx

theorem rsqrteZero (sg : SignBit) : Statement (.rsqrteZero sg) := fun _ => by
  simp [encode, classOfInstr, classOf, classOfFields]

theorem rsqrtePinf : Statement .rsqrtePinf := fun _ => by
  simp [encode, classOfInstr, classOf, classOfFields]

theorem rsqrteNinf : Statement .rsqrteNinf := fun _ => by
  simp [encode, classOfInstr, classOf, classOfFields]

theorem rsqrteNan (sg : SignBit) (m : MantField) : Statement (.rsqrteNan sg m) := fun h => by
  have hm : m ≠ 0 := by simpa [Instr.wellFormed] using h
  simp_all [encode, classOfInstr, classOf, classOfFields]

theorem rsqrteNeg (e : ExpField) (m : MantField) : Statement (.rsqrteNeg e m) := fun h => by
  have he : e ≠ 0x7FF ∧ (e = 0 → m ≠ 0) := by
    simpa [Instr.wellFormed, ← Decidable.imp_iff_not_or] using h
  simp_all [encode, classOfInstr, classOf, classOfFields]

theorem rsqrteDenorm (m : MantField) : Statement (.rsqrteDenorm m) := fun h => by
  have hm : m ≠ 0 := by simpa [Instr.wellFormed] using h
  simp_all [encode, classOfInstr, classOf, classOfFields]

theorem rsqrteNorm (e : ExpField) (m : MantField) : Statement (.rsqrteNorm e m) := fun h => by
  have he : e ≠ 0 ∧ e ≠ 0x7FF := by simpa [Instr.wellFormed] using h
  simp_all [encode, classOfInstr, classOf, classOfFields]

theorem extract (x : Word) : Statement (.extract x) := fun _ => rfl

theorem lookup (idx : RomIndex) : Statement (.lookup idx) := fun _ => rfl

end Sys2Proof.Laws.OperandOfClass
end

