-- ==== Sys2Proof/Laws/Rows.lean ====
section
/-!
SUPPORT. Sys2Proof/Laws/Rows.lean: what each row of the operand decode asks of a pattern's fields.
-/

namespace Sys2Proof

open Machine

theorem bit_eq_one_of_ne_zero {b : SignBit} (h : b ≠ 0) : b = 1 := by
  revert b; decide

/-- A row's mask and pattern act field by field; the fields of the two are given as equations. -/
theorem hits_iff {c : OperandClass} {p k : Word} {cond : RowCondition} {ps ks : SignBit} {pe ke : ExpField} {pm km : MantField}
    (hp : p = assemble ps pe pm) (hk : k = assemble ks ke km) (x : Word) :
    OperandRow.hits ⟨c, p, k, cond⟩ x = true ↔
      (signOf x &&& ks = ps ∧ expOf x &&& ke = pe ∧ mantOf x &&& km = pm) ∧ cond.holds x = true := by
  subst hp hk
  simp only [OperandRow.hits, Bool.and_eq_true, beq_iff_eq, eq_iff_fields (x &&& _), signOf_and, expOf_and, mantOf_and,
    signOf_assemble, expOf_assemble, mantOf_assemble]

theorem zeroRow_hits (x : Word) :
    OperandRow.hits ⟨.zero, 0x0000000000000000, 0x7FFFFFFFFFFFFFFF, .none⟩ x = true ↔ expOf x = 0 ∧ mantOf x = 0 := by
  rw [hits_iff (ps := 0) (pe := 0) (pm := 0) (ks := 0) (ke := BitVec.allOnes 11) (km := BitVec.allOnes 52)
    (by decide) (by decide), BitVec.and_allOnes, BitVec.and_allOnes]
  simp [RowCondition.holds]

theorem pinfRow_hits (x : Word) :
    OperandRow.hits ⟨.pinf, 0x7FF0000000000000, 0xFFFFFFFFFFFFFFFF, .none⟩ x = true ↔
      signOf x = 0 ∧ expOf x = 0x7FF ∧ mantOf x = 0 := by
  rw [hits_iff (ps := 0) (pe := 0x7FF) (pm := 0) (ks := BitVec.allOnes 1) (ke := BitVec.allOnes 11)
    (km := BitVec.allOnes 52) (by decide) (by decide), BitVec.and_allOnes, BitVec.and_allOnes, BitVec.and_allOnes]
  simp [RowCondition.holds]

theorem ninfRow_hits (x : Word) :
    OperandRow.hits ⟨.ninf, 0xFFF0000000000000, 0xFFFFFFFFFFFFFFFF, .none⟩ x = true ↔
      signOf x = 1 ∧ expOf x = 0x7FF ∧ mantOf x = 0 := by
  rw [hits_iff (ps := 1) (pe := 0x7FF) (pm := 0) (ks := BitVec.allOnes 1) (ke := BitVec.allOnes 11)
    (km := BitVec.allOnes 52) (by decide) (by decide), BitVec.and_allOnes, BitVec.and_allOnes, BitVec.and_allOnes]
  simp [RowCondition.holds]

theorem nanRow_hits (x : Word) :
    OperandRow.hits ⟨.nan, 0x7FF0000000000000, 0x7FF0000000000000, .mantissaNotZero⟩ x = true ↔
      expOf x = 0x7FF ∧ mantOf x ≠ 0 := by
  rw [hits_iff (ps := 0) (pe := 0x7FF) (pm := 0) (ks := 0) (ke := BitVec.allOnes 11) (km := 0)
    (by decide) (by decide), BitVec.and_allOnes]
  simp [RowCondition.holds]

theorem negRow_hits (x : Word) :
    OperandRow.hits ⟨.neg, 0x8000000000000000, 0x8000000000000000, .none⟩ x = true ↔ signOf x = 1 := by
  rw [hits_iff (ps := 1) (pe := 0) (pm := 0) (ks := BitVec.allOnes 1) (ke := 0) (km := 0)
    (by decide) (by decide), BitVec.and_allOnes]
  simp [RowCondition.holds]

theorem denormRow_hits (x : Word) :
    OperandRow.hits ⟨.denorm, 0x0000000000000000, 0xFFF0000000000000, .mantissaNotZero⟩ x = true ↔
      signOf x = 0 ∧ expOf x = 0 ∧ mantOf x ≠ 0 := by
  rw [hits_iff (ps := 0) (pe := 0) (pm := 0) (ks := BitVec.allOnes 1) (ke := BitVec.allOnes 11) (km := 0)
    (by decide) (by decide), BitVec.and_allOnes, BitVec.and_allOnes]
  simp [RowCondition.holds, and_assoc]

/-- An exponent field in 1..2046 is one that is neither all zeros nor all ones. -/
theorem exponentNormal_iff (e : ExpField) : (1 ≤ e.toNat ∧ e.toNat ≤ 2046) ↔ (e ≠ 0 ∧ e ≠ 0x7FF) := by
  have := e.isLt
  simp only [ne_eq, ← BitVec.toNat_inj]
  simp
  omega

theorem normRow_hits (x : Word) :
    OperandRow.hits ⟨.norm, 0x0000000000000000, 0x8000000000000000, .exponentNormal⟩ x = true ↔
      signOf x = 0 ∧ expOf x ≠ 0 ∧ expOf x ≠ 0x7FF := by
  rw [hits_iff (ps := 0) (pe := 0) (pm := 0) (ks := BitVec.allOnes 1) (ke := 0) (km := 0)
    (by decide) (by decide), BitVec.and_allOnes, ← exponentNormal_iff]
  simp [RowCondition.holds]

end Sys2Proof
end

