-- ==== Sys2Proof/Laws/State.lean ====
section
/-!
SUPPORT. Sys2Proof/Laws/State.lean: one lemma per field per update of State.
-/

namespace Sys2Proof.Machine

@[simp] theorem State.driveY_x (s : State) (v : Word) : (s.driveY v).x = s.x := rfl
@[simp] theorem State.driveY_y (s : State) (v : Word) : (s.driveY v).y = some v := rfl
@[simp] theorem State.driveY_exIn (s : State) (v : Word) : (s.driveY v).exIn = s.exIn := rfl
@[simp] theorem State.driveY_exOut (s : State) (v : Word) : (s.driveY v).exOut = s.exOut := rfl
@[simp] theorem State.driveY_lkIn (s : State) (v : Word) : (s.driveY v).lkIn = s.lkIn := rfl
@[simp] theorem State.driveY_lkOut (s : State) (v : Word) : (s.driveY v).lkOut = s.lkOut := rfl
@[simp] theorem State.driveY_rom (s : State) (v : Word) : (s.driveY v).rom = s.rom := rfl
@[simp] theorem State.driveY_host (s : State) (v : Word) : (s.driveY v).host = s.host := rfl
@[simp] theorem State.driveY_hostRead (s : State) (v : Word) : (s.driveY v).hostRead = s.hostRead := rfl

@[simp] theorem State.driveExtracted_x (s : State) (o : Extracted) : (s.driveExtracted o).x = s.x := rfl
@[simp] theorem State.driveExtracted_y (s : State) (o : Extracted) : (s.driveExtracted o).y = s.y := rfl
@[simp] theorem State.driveExtracted_exIn (s : State) (o : Extracted) : (s.driveExtracted o).exIn = s.exIn := rfl
@[simp] theorem State.driveExtracted_exOut (s : State) (o : Extracted) : (s.driveExtracted o).exOut = some o := rfl
@[simp] theorem State.driveExtracted_lkIn (s : State) (o : Extracted) : (s.driveExtracted o).lkIn = s.lkIn := rfl
@[simp] theorem State.driveExtracted_lkOut (s : State) (o : Extracted) : (s.driveExtracted o).lkOut = s.lkOut := rfl
@[simp] theorem State.driveExtracted_rom (s : State) (o : Extracted) : (s.driveExtracted o).rom = s.rom := rfl
@[simp] theorem State.driveExtracted_host (s : State) (o : Extracted) : (s.driveExtracted o).host = s.host := rfl
@[simp] theorem State.driveExtracted_hostRead (s : State) (o : Extracted) : (s.driveExtracted o).hostRead = s.hostRead := rfl

@[simp] theorem State.driveEntry_x (s : State) (c : CalEntry) : (s.driveEntry c).x = s.x := rfl
@[simp] theorem State.driveEntry_y (s : State) (c : CalEntry) : (s.driveEntry c).y = s.y := rfl
@[simp] theorem State.driveEntry_exIn (s : State) (c : CalEntry) : (s.driveEntry c).exIn = s.exIn := rfl
@[simp] theorem State.driveEntry_exOut (s : State) (c : CalEntry) : (s.driveEntry c).exOut = s.exOut := rfl
@[simp] theorem State.driveEntry_lkIn (s : State) (c : CalEntry) : (s.driveEntry c).lkIn = s.lkIn := rfl
@[simp] theorem State.driveEntry_lkOut (s : State) (c : CalEntry) : (s.driveEntry c).lkOut = some c := rfl
@[simp] theorem State.driveEntry_rom (s : State) (c : CalEntry) : (s.driveEntry c).rom = s.rom := rfl
@[simp] theorem State.driveEntry_host (s : State) (c : CalEntry) : (s.driveEntry c).host = s.host := rfl
@[simp] theorem State.driveEntry_hostRead (s : State) (c : CalEntry) : (s.driveEntry c).hostRead = s.hostRead := rfl

@[simp] theorem State.setHost_x (s : State) (h : List HostAction) : (s.setHost h).x = s.x := rfl
@[simp] theorem State.setHost_y (s : State) (h : List HostAction) : (s.setHost h).y = s.y := rfl
@[simp] theorem State.setHost_exIn (s : State) (h : List HostAction) : (s.setHost h).exIn = s.exIn := rfl
@[simp] theorem State.setHost_exOut (s : State) (h : List HostAction) : (s.setHost h).exOut = s.exOut := rfl
@[simp] theorem State.setHost_lkIn (s : State) (h : List HostAction) : (s.setHost h).lkIn = s.lkIn := rfl
@[simp] theorem State.setHost_lkOut (s : State) (h : List HostAction) : (s.setHost h).lkOut = s.lkOut := rfl
@[simp] theorem State.setHost_rom (s : State) (h : List HostAction) : (s.setHost h).rom = s.rom := rfl
@[simp] theorem State.setHost_host (s : State) (h : List HostAction) : (s.setHost h).host = h := rfl
@[simp] theorem State.setHost_hostRead (s : State) (h : List HostAction) : (s.setHost h).hostRead = s.hostRead := rfl

@[simp] theorem State.recordRead_x (s : State) (v : Word) : (s.recordRead v).x = s.x := rfl
@[simp] theorem State.recordRead_y (s : State) (v : Word) : (s.recordRead v).y = s.y := rfl
@[simp] theorem State.recordRead_exIn (s : State) (v : Word) : (s.recordRead v).exIn = s.exIn := rfl
@[simp] theorem State.recordRead_exOut (s : State) (v : Word) : (s.recordRead v).exOut = s.exOut := rfl
@[simp] theorem State.recordRead_lkIn (s : State) (v : Word) : (s.recordRead v).lkIn = s.lkIn := rfl
@[simp] theorem State.recordRead_lkOut (s : State) (v : Word) : (s.recordRead v).lkOut = s.lkOut := rfl
@[simp] theorem State.recordRead_rom (s : State) (v : Word) : (s.recordRead v).rom = s.rom := rfl
@[simp] theorem State.recordRead_host (s : State) (v : Word) : (s.recordRead v).host = s.host := rfl
@[simp] theorem State.recordRead_hostRead (s : State) (v : Word) : (s.recordRead v).hostRead = some v := rfl

@[simp] theorem State.releaseSubBlocks_x (s : State) : s.releaseSubBlocks.x = s.x := rfl
@[simp] theorem State.releaseSubBlocks_y (s : State) : s.releaseSubBlocks.y = s.y := rfl
@[simp] theorem State.releaseSubBlocks_exIn (s : State) : s.releaseSubBlocks.exIn = none := rfl
@[simp] theorem State.releaseSubBlocks_exOut (s : State) : s.releaseSubBlocks.exOut = none := rfl
@[simp] theorem State.releaseSubBlocks_lkIn (s : State) : s.releaseSubBlocks.lkIn = none := rfl
@[simp] theorem State.releaseSubBlocks_lkOut (s : State) : s.releaseSubBlocks.lkOut = none := rfl
@[simp] theorem State.releaseSubBlocks_rom (s : State) : s.releaseSubBlocks.rom = s.rom := rfl
@[simp] theorem State.releaseSubBlocks_host (s : State) : s.releaseSubBlocks.host = s.host := rfl
@[simp] theorem State.releaseSubBlocks_hostRead (s : State) : s.releaseSubBlocks.hostRead = s.hostRead := rfl

@[simp] theorem State.present_rsqrte_x (s : State) (x : Word) : (s.present (.rsqrte x)).x = some x := rfl
@[simp] theorem State.present_rsqrte_y (s : State) (x : Word) : (s.present (.rsqrte x)).y = s.y := rfl
@[simp] theorem State.present_rsqrte_exIn (s : State) (x : Word) : (s.present (.rsqrte x)).exIn = none := rfl
@[simp] theorem State.present_rsqrte_exOut (s : State) (x : Word) : (s.present (.rsqrte x)).exOut = none := rfl
@[simp] theorem State.present_rsqrte_lkIn (s : State) (x : Word) : (s.present (.rsqrte x)).lkIn = none := rfl
@[simp] theorem State.present_rsqrte_lkOut (s : State) (x : Word) : (s.present (.rsqrte x)).lkOut = none := rfl
@[simp] theorem State.present_rsqrte_rom (s : State) (x : Word) : (s.present (.rsqrte x)).rom = s.rom := rfl
@[simp] theorem State.present_rsqrte_host (s : State) (x : Word) : (s.present (.rsqrte x)).host = s.host := rfl
@[simp] theorem State.present_rsqrte_hostRead (s : State) (x : Word) : (s.present (.rsqrte x)).hostRead = s.hostRead := rfl

@[simp] theorem State.present_extract_x (s : State) (x : Word) : (s.present (.extract x)).x = s.x := rfl
@[simp] theorem State.present_extract_y (s : State) (x : Word) : (s.present (.extract x)).y = s.y := rfl
@[simp] theorem State.present_extract_exIn (s : State) (x : Word) : (s.present (.extract x)).exIn = some x := rfl
@[simp] theorem State.present_extract_exOut (s : State) (x : Word) : (s.present (.extract x)).exOut = none := rfl
@[simp] theorem State.present_extract_lkIn (s : State) (x : Word) : (s.present (.extract x)).lkIn = none := rfl
@[simp] theorem State.present_extract_lkOut (s : State) (x : Word) : (s.present (.extract x)).lkOut = none := rfl
@[simp] theorem State.present_extract_rom (s : State) (x : Word) : (s.present (.extract x)).rom = s.rom := rfl
@[simp] theorem State.present_extract_host (s : State) (x : Word) : (s.present (.extract x)).host = s.host := rfl
@[simp] theorem State.present_extract_hostRead (s : State) (x : Word) : (s.present (.extract x)).hostRead = s.hostRead := rfl

@[simp] theorem State.present_lookup_x (s : State) (idx : RomIndex) : (s.present (.lookup idx)).x = s.x := rfl
@[simp] theorem State.present_lookup_y (s : State) (idx : RomIndex) : (s.present (.lookup idx)).y = s.y := rfl
@[simp] theorem State.present_lookup_exIn (s : State) (idx : RomIndex) : (s.present (.lookup idx)).exIn = none := rfl
@[simp] theorem State.present_lookup_exOut (s : State) (idx : RomIndex) : (s.present (.lookup idx)).exOut = none := rfl
@[simp] theorem State.present_lookup_lkIn (s : State) (idx : RomIndex) : (s.present (.lookup idx)).lkIn = some idx := rfl
@[simp] theorem State.present_lookup_lkOut (s : State) (idx : RomIndex) : (s.present (.lookup idx)).lkOut = none := rfl
@[simp] theorem State.present_lookup_rom (s : State) (idx : RomIndex) : (s.present (.lookup idx)).rom = s.rom := rfl
@[simp] theorem State.present_lookup_host (s : State) (idx : RomIndex) : (s.present (.lookup idx)).host = s.host := rfl
@[simp] theorem State.present_lookup_hostRead (s : State) (idx : RomIndex) : (s.present (.lookup idx)).hostRead = s.hostRead := rfl

@[simp] theorem State.present_exOut (s : State) (t : Transaction) : (s.present t).exOut = none := by cases t <;> rfl
@[simp] theorem State.present_lkOut (s : State) (t : Transaction) : (s.present t).lkOut = none := by cases t <;> rfl
@[simp] theorem State.present_y (s : State) (t : Transaction) : (s.present t).y = s.y := by cases t <;> rfl
@[simp] theorem State.present_rom (s : State) (t : Transaction) : (s.present t).rom = s.rom := by cases t <;> rfl
@[simp] theorem State.present_host (s : State) (t : Transaction) : (s.present t).host = s.host := by cases t <;> rfl
@[simp] theorem State.present_hostRead (s : State) (t : Transaction) : (s.present t).hostRead = s.hostRead := by cases t <;> rfl

/-- What a presented transaction leaves does not depend on the sub-blocks' ports. -/
@[simp] theorem State.present_releaseSubBlocks (s : State) (t : Transaction) : s.releaseSubBlocks.present t = s.present t := by
  cases t <;> rfl

@[simp] theorem State.romRead_eq (s : State) (idx : RomIndex) : s.romRead idx = calRead s.rom idx := rfl

@[simp] theorem State.present_setHost (s : State) (t : Transaction) (h : List HostAction) :
    (s.setHost h).present t = (s.present t).setHost h := by cases t <;> rfl

end Sys2Proof.Machine
end

