-- ==== Sys2Proof/Laws/Step.lean ====
section
/-!
SUPPORT. Sys2Proof/Laws/Step.lean: everything a step, a transaction and a read of Y can do.
-/

namespace Sys2Proof.Machine

/-- A read of Y faults while Y holds no value, and otherwise records the value. -/
theorem readY_cases (s : State) :
    (s.y = none ∧ readY s = .fault .readBeforeResult) ∨ (∃ v, s.y = some v ∧ readY s = .next (s.recordRead v)) := by
  cases h : s.y with
  | none => exact .inl ⟨rfl, by simp [readY, h]⟩
  | some v => exact .inr ⟨v, rfl, by simp [readY, h]⟩

/-- A transaction that decodes runs its instruction with the operand at the unit's input. -/
theorem runTransaction_of_decode {t : Transaction} {i : Instr} (h : decode t = some i) (s : State) :
    runTransaction t s = exec i (s.present t) := by
  simp [runTransaction, h]

theorem step_idle {s : State} (h : s.host = []) : step s = .next s := by
  simp [step, h]

theorem step_present {s : State} {t : Transaction} {rest : List HostAction} (h : s.host = .present t :: rest) :
    step s = runTransaction t (s.setHost rest) := by
  simp [step, h]

theorem step_readY {s : State} {rest : List HostAction} (h : s.host = .readY :: rest) :
    step s = readY (s.setHost rest) := by
  simp [step, h]

/-- Inversion: a step that answers a next state is idle, ran a transaction that decodes, or read a value from Y. -/
theorem step_next_cases {s t : State} (h : step s = .next t) :
    (s.host = [] ∧ t = s) ∨
    (∃ tr i rest, s.host = .present tr :: rest ∧ decode tr = some i ∧ exec i ((s.setHost rest).present tr) = .next t) ∨
    (∃ v rest, s.host = .readY :: rest ∧ s.y = some v ∧ t = (s.setHost rest).recordRead v) := by
  cases hh : s.host with
  | nil =>
    rw [step_idle hh] at h
    cases h
    exact .inl ⟨rfl, rfl⟩
  | cons a rest =>
    cases a with
    | present tr =>
      rw [step_present hh] at h
      cases hd : decode tr with
      | none => simp [runTransaction, hd] at h
      | some i =>
        rw [runTransaction_of_decode hd] at h
        exact .inr (.inl ⟨tr, i, rest, rfl, hd, h⟩)
    | readY =>
      rw [step_readY hh] at h
      rcases readY_cases (s.setHost rest) with ⟨_, hf⟩ | ⟨v, hy, hn⟩
      · rw [hf] at h; cases h
      · rw [hn] at h
        cases h
        exact .inr (.inr ⟨v, rest, rfl, hy, rfl⟩)

end Sys2Proof.Machine
end

