-- ==== Sys2Proof/Tests/Slice0.lean ====
section
/-!
SUPPORT. Sys2Proof/Tests/Slice0.lean: tests with results from the spec's own tables (spec/95_test_vectors.md, and the worked examples of the rules), the
smoke tests of WellFormed, and a witness for each statement's hypotheses.
-/

namespace Sys2Proof.Tests

open Machine

/-- The state after one transaction from reset, the host presenting it. -/
def after (t : Transaction) : Option State := nextOf (step (State.reset.placeFirst t))

/-- The result port Y after one RSQRTE from reset. -/
def resultOf (x : Word) : Option Word := (after (.rsqrte x)).bind (·.y)

/-! ### WellFormed refuses what its checks name -/

theorem test_wf_refuses_nan_with_zero_mantissa : (Instr.rsqrteNan 0 0).wellFormed = false := by decide
theorem test_wf_refuses_neg_zero : (Instr.rsqrteNeg 0 0).wellFormed = false := by decide
theorem test_wf_refuses_neg_all_ones_exponent : (Instr.rsqrteNeg 0x7FF 1).wellFormed = false := by decide
theorem test_wf_refuses_denorm_with_zero_mantissa : (Instr.rsqrteDenorm 0).wellFormed = false := by decide
theorem test_wf_refuses_norm_zero_exponent : (Instr.rsqrteNorm 0 1).wellFormed = false := by decide
theorem test_wf_refuses_norm_all_ones_exponent : (Instr.rsqrteNorm 0x7FF 1).wellFormed = false := by decide
theorem test_wf_accepts_each_class :
    (Instr.rsqrteZero 1).wellFormed ∧ Instr.rsqrtePinf.wellFormed ∧ Instr.rsqrteNinf.wellFormed ∧
    (Instr.rsqrteNan 1 1).wellFormed ∧ (Instr.rsqrteNeg 0 1).wellFormed ∧ (Instr.rsqrteDenorm 1).wellFormed ∧
    (Instr.rsqrteNorm 1 0).wellFormed ∧ (Instr.extract 0).wellFormed ∧ (Instr.lookup 31).wellFormed := by decide

/-! ### Decoding: words written out bit by bit from R31, R35 and R38 -/

theorem test_decode_zero :
    decode (.rsqrte 0b1000000000000000000000000000000000000000000000000000000000000000) = some (.rsqrteZero 1) := by decide
theorem test_decode_pinf :
    decode (.rsqrte 0b0111111111110000000000000000000000000000000000000000000000000000) = some .rsqrtePinf := by decide
theorem test_decode_ninf :
    decode (.rsqrte 0b1111111111110000000000000000000000000000000000000000000000000000) = some .rsqrteNinf := by decide
theorem test_decode_nan :
    decode (.rsqrte 0b1111111111110000000000000000000000000000000000000000000000000001) = some (.rsqrteNan 1 1) := by decide
theorem test_decode_neg :
    decode (.rsqrte 0b1000000000000000000000000000000000000000000000000000000000000001) = some (.rsqrteNeg 0 1) := by decide
theorem test_decode_denorm :
    decode (.rsqrte 0b0000000000001000000000000000000000000000000000000000000000000001) =
      some (.rsqrteDenorm 0x8000000000001) := by decide
theorem test_decode_norm :
    decode (.rsqrte 0b0100000000001000000000000000000000000000000000000000000000000000) =
      some (.rsqrteNorm 0x400 0x8000000000000) := by decide
theorem test_decode_table_word_rsqrte : decodeTableWord 64 0xBFF0000000000000 = some (.rsqrteNeg 0x3FF 0) := by decide
theorem test_decode_table_word_lookup : decodeTableWord 8 0b10000 = some (.lookup 16) := by decide
theorem test_decode_table_word_refuses_wide_index : decodeTableWord 8 32 = none := by decide
/-- R41's written form of a transaction. -/
theorem test_line_of_lookup : Transaction.line (.lookup 16) = ['l', 'o', 'o', 'k', 'u', 'p', ' ', '1', '6'] := by decide

/-! ### RSQRTE: the vectors of spec/95_test_vectors.md section 2.3 -/

/-- V2. -/
theorem test_zero_keeps_sign : resultOf 0x8000000000000000 = some 0xFFF0000000000000 := by decide
/-- V3. -/
theorem test_pinf_gives_pos_zero : resultOf 0x7FF0000000000000 = some 0x0000000000000000 := by decide
/-- V4. -/
theorem test_ninf_gives_default_nan : resultOf 0xFFF0000000000000 = some 0x7FF8000000000000 := by decide
/-- V7. -/
theorem test_nan_negative_signalling : resultOf 0xFFF0000000000001 = some 0xFFF8000000000001 := by decide
/-- V10. -/
theorem test_nan_max_payload : resultOf 0x7FF7FFFFFFFFFFFF = some 0x7FFFFFFFFFFFFFFF := by decide
/-- V13. -/
theorem test_neg_denormal : resultOf 0x800FFFFFFFFFFFFF = some 0x7FF8000000000000 := by decide
/-- V14. -/
theorem test_neg_most_negative : resultOf 0xFFEFFFFFFFFFFFFF = some 0x7FF8000000000000 := by decide
/-- V16: 52 shifts. -/
theorem test_denorm_smallest : resultOf 0x0000000000000001 = some 0x617FFE8000000000 := by decide +kernel
/-- V23: one shift, E = 0. -/
theorem test_denorm_largest : resultOf 0x000FFFFFFFFFFFFF = some 0x5FE000082C000000 := by decide
/-- V41. -/
theorem test_norm_thousandth : resultOf 0x3F50624DD2F1A9FC = some 0x403FA0A9E0000000 := by decide
/-- V43: the smallest contribution and the smallest output exponent. -/
theorem test_norm_largest : resultOf 0x7FEFFFFFFFFFFFFF = some 0x1FF000082C000000 := by decide
/-- Program P4, line L2. -/
theorem test_norm_of_earlier_result : resultOf 0x3FDFFE8000000000 = some 0x3FF6A0CB20000000 := by decide

/-! ### EXTRACT and LOOKUP: sections 2.1 and 2.2 -/

theorem test_extract_three :
    (after (.extract 0x4008000000000000)).bind (·.exOut) = some ⟨0, 0x400, 0x8000000000000, .norm⟩ := by decide
theorem test_extract_negative_denormal :
    (after (.extract 0x8000000000000001)).bind (·.exOut) = some ⟨1, 0, 1, .neg⟩ := by decide
theorem test_lookup_first_odd : (after (.lookup 16)).bind (·.lkOut) = some ⟨0x1A7E800, 0x568⟩ := by decide
theorem test_lookup_last : (after (.lookup 31)).bind (·.lkOut) = some ⟨0x0105800, 0x20B⟩ := by decide
/-- R50: exactly the named line is 1. -/
theorem test_class_lines : (classLines .neg).toList = [false, false, false, false, true, false, false] := by decide

/-- R13: an RSQRTE after an EXTRACT leaves the extractor's ports without a value. -/
theorem test_sub_block_ports_are_released :
    ((after (.extract 0x4008000000000000)).bind (fun s => nextOf (runTransaction (.rsqrte 0x7FF0000000000000) s))).map
      (fun s => (s.exIn, s.exOut, s.y)) = some (none, none, some 0) := by decide
/-- R13: Y is kept across a LOOKUP. -/
theorem test_y_is_kept_across_lookup :
    ((after (.rsqrte 0x8000000000000000)).bind (fun s => nextOf (runTransaction (.lookup 31) s))).map
      (fun s => (s.y, s.lkOut)) = some (some 0xFFF0000000000000, some ⟨0x0105800, 0x20B⟩) := by decide

/-! ### The host -/

/-- R19: the early read faults. -/
theorem test_early_read_faults : step { State.reset with host := [.readY] } = .fault .readBeforeResult := rfl
/-- R82: a read after an operation gets Y. -/
theorem test_read_after_operation :
    (nextOf (step { State.reset with y := some 5, host := [.readY] })).bind (·.hostRead) = some 5 := by decide
/-- The verdicts of program P3, and of its false variant. -/
theorem test_harness_verdicts :
    [judge 0x7FF4000000000000 0 0, judge 0xC000000000000000 0x7FF8000000000000 0xFFF8000000000001,
      judge 0x4008000000000000 0x3FE2794000000000 0x3FE2794000000000,
      judge 0x4008000000000000 0x3FE2794000000001 0x3FE2794000000000] = [.skipped, .agrees, .agrees, .differs] := by decide
/-- The counters of program P3's false variant on its last sample. -/
theorem test_harness_counts :
    ([Verdict.agrees, .skipped, .agrees, .agrees, .differs].foldl Tally.add ⟨0, 0, 0⟩) = ⟨1, 4, 1⟩ := by decide
/-- R3, R4: R65's 3068 is twice the bias and the offset. -/
theorem test_exponent_constants : 2 * Params.expBias + Params.expOffset = 3068 := by decide

/-! ### Witnesses: each statement's hypotheses are met together by something concrete -/

/-- A ROM with the property of R47 that holds one entry throughout. -/
def flatRom : CalTable := Vector.replicate 32 ⟨0x1000, 1⟩

/-- A ROM without that property. -/
def brokenRom : CalTable := Vector.replicate 32 ⟨0, 1⟩

/-- The state after reset, but for its ROM. -/
def flat : State := { State.reset with rom := flatRom }

theorem flatRom_read (idx : RomIndex) : calRead flatRom idx = ⟨0x1000, 1⟩ := by
  revert idx; decide

theorem flatRom_ok : TableOk flatRom := by
  intro idx fine hf
  rw [flatRom_read]
  simp
  omega

theorem flat_inv : flat.Inv := ⟨flatRom_ok, rfl, rfl, rfl, by decide⟩

theorem witness_DecodeOfEncode : (Instr.rsqrteNorm 2046 0xFFFFFFFFFFFFF).wellFormed = true := by decide
theorem witness_EncodeOfDecode : decode (.rsqrte 0xFFEFFFFFFFFFFFFF) = some (.rsqrteNeg 0x7FE 0xFFFFFFFFFFFFF) := by decide
theorem witness_EveryTransactionCompletes : TableOk flat.rom := flatRom_ok
theorem witness_ClassTestOrder : (1 : MantField) ≠ 0 ∧ (1 : ExpField) ≠ 0 ∧ (1 : ExpField) ≠ 0x7FF ∧ (0x7FE : ExpField) ≠ 0x7FF := by decide
/-- One operand for each class clause of ExtractDrivesClass. -/
theorem witness_ExtractDrivesClass :
    [0x8000000000000000, 0x7FF0000000000000, 0xFFF0000000000000, 0x7FF0000000000001, 0xFFEFFFFFFFFFFFFF,
      0x000FFFFFFFFFFFFF, 0x0010000000000000].map classOf = [.zero, .pinf, .ninf, .nan, .neg, .denorm, .norm] := by decide
theorem witness_LookupUnchangedByHistory : exec .rsqrtePinf flat = .next { flat with y := some 0 } := rfl
theorem witness_ZeroGivesSignedInfinity : (0x8000000000000000 : Word) &&& 0x7FFFFFFFFFFFFFFF = 0 := by decide
theorem witness_NegativeGivesDefaultNan :
    signOf 0x8000000000000001 = 1 ∧ expOf 0x8000000000000001 ≠ 0x7FF ∧
      ¬(expOf 0x8000000000000001 = 0 ∧ mantOf 0x8000000000000001 = 0) := by decide
theorem witness_NanIsQuieted :
    expOf 0x7FF8000000000000 = 0x7FF ∧ mantOf 0x7FF8000000000000 ≠ 0 ∧ (0x7FF8000000000000 : Word).getLsbD 51 = true := by decide
theorem witness_SpecialCasesReadNoRom :
    (Instr.rsqrteNan 1 1).wellFormed = true ∧ encode (.rsqrteNan 1 1) = .rsqrte 0xFFF0000000000001 ∧
      classOf 0xFFF0000000000001 ≠ .denorm ∧ classOf 0xFFF0000000000001 ≠ .norm := by decide
/-- Both ends of the exponent's range. -/
theorem witness_NormResult :
    ((1 : ExpField) ≠ 0 ∧ (1 : ExpField) ≠ 0x7FF ∧ (0x7FE : ExpField) ≠ 0 ∧ (0x7FE : ExpField) ≠ 0x7FF) ∧ TableOk flat.rom :=
  ⟨by decide, flatRom_ok⟩
/-- Both ends of the mantissa's range. -/
theorem witness_DenormResult : ((1 : MantField) ≠ 0 ∧ (0xFFFFFFFFFFFFF : MantField) ≠ 0) ∧ TableOk flat.rom := ⟨by decide, flatRom_ok⟩
theorem witness_NormalizeKeepsValue : (1 : MantField) ≠ 0 := by decide
theorem witness_NormalizeLoopBounded : (1 : MantField) ≠ 0 ∧ 52 ≤ 53 := by decide
theorem witness_OutExponentForms : ((-51 : Int) ≤ -51 ∧ (-51 : Int) ≤ 2046) ∧ (-51 : Int) ≤ 2046 ∧ (2046 : Int) ≤ 2046 := by decide
theorem witness_LowMantissaBitsIgnored :
    (0 : MantField).extractLsb' 37 15 = (0x1FFFFFFFFF : MantField).extractLsb' 37 15 := by decide
theorem witness_CalTableInRange : 2047 < 2048 := by decide
theorem witness_ArithResultIsPositiveNormal :
    ((Instr.rsqrteDenorm 1).wellFormed = true ∧ (Instr.rsqrteNorm 0x7FE 0).wellFormed = true) ∧ TableOk flat.rom ∧
      (∃ m, Instr.rsqrteDenorm 1 = .rsqrteDenorm m) ∧ (∃ e m, Instr.rsqrteNorm 0x7FE 0 = .rsqrteNorm e m) :=
  ⟨by decide, flatRom_ok, ⟨_, rfl⟩, ⟨_, _, rfl⟩⟩
/-- A ROM that agrees with `flatRom` but for entry 31. -/
def flatRomButLast : CalTable := flatRom.set 31 ⟨0, 1⟩

theorem flatRomButLast_read (idx : RomIndex) : calRead flatRomButLast idx = if idx = 31 then ⟨0, 1⟩ else ⟨0x1000, 1⟩ := by
  revert idx; decide

/-- The entries read agree, and another entry differs. -/
theorem witness_ArithReadsOneEntry :
    calRead flatRomButLast (tableIndex 1023 0) = calRead flatRom (tableIndex 1023 0) ∧
    calRead flatRomButLast (tableIndex (normalizeMant 1).1 (normalizeMant 1).2) =
      calRead flatRom (tableIndex (normalizeMant 1).1 (normalizeMant 1).2) ∧
    calRead flatRomButLast 31 ≠ calRead flatRom 31 := by
  rw [flatRomButLast_read, flatRomButLast_read, flatRomButLast_read, flatRom_read, flatRom_read, flatRom_read]
  decide +kernel
theorem witness_ArithReadsOneEntry_completes :
    (nextOf (exec (.rsqrteNorm 1023 0) flat)).isSome ∧ (nextOf (exec (.rsqrteDenorm 1) flat)).isSome := by decide +kernel
/-- A refused entry exists: fine index 1 in an entry with base 0 and dec 1. -/
theorem witness_BrokenEntryIsRefused :
    exec (.rsqrteNorm 1023 0x2000000000) { flat with rom := brokenRom } = .refused .calTableOutOfRange := rfl
theorem witness_StepComputesRsqrte :
    TableOk flat.rom ∧ (flat.placeFirst (.rsqrte 1)).host = .present (.rsqrte 1) :: [] := ⟨flatRom_ok, rfl⟩
theorem witness_RsqrteIsTotalFunction : TableOk flatRom := flatRom_ok
theorem witness_ResultKindByClass : TableOk flat.rom := flatRom_ok
theorem witness_NanAndDenormalOutputs : TableOk flat.rom := flatRom_ok
theorem witness_StepRunsDecodedInstruction :
    (flat.placeFirst (.lookup 31)).host = .present (.lookup 31) :: [] ∧ decode (.lookup 31) = some (.lookup 31) := by decide
theorem witness_IdleStepChangesNothing : State.reset.host = [] := rfl
/-- Both clauses: Y without and with a value. -/
theorem witness_ReadOfResultPort :
    (flat.setHost [.readY]).host = .readY :: [] ∧ (flat.setHost [.readY]).y = none ∧
      ((flat.driveY 7).setHost [.readY]).host = .readY :: [] ∧ ((flat.driveY 7).setHost [.readY]).y = some 7 := by decide
theorem witness_OneOutputPerInstruction : exec (.lookup 3) flat = .next { flat with lkOut := some ⟨0x1000, 1⟩ } := rfl
theorem witness_RomIsNeverWritten : step flat = .next flat := rfl
theorem witness_OrderDoesNotMatter : TableOk flat.rom ∧ (Transaction.rsqrte 1).drives ≠ (Transaction.lookup 1).drives :=
  ⟨flatRom_ok, by decide⟩
/-- A transaction of each unit completes, so each clause has a case. -/
theorem witness_OnlyXAndYAreKept :
    (nextOf (runTransaction (.rsqrte 0) flat)).isSome ∧ (nextOf (runTransaction (.extract 0) flat)).isSome ∧
      (nextOf (runTransaction (.lookup 0) flat)).isSome := by decide
theorem witness_StepStopsOnlyOnEarlyRead : TableOk flat.rom := flatRom_ok
theorem witness_StepKeepsInv : flat.Inv ∧ (nextOf (step (flat.placeFirst (.rsqrte 1)))).isSome := ⟨flat_inv, by decide⟩
theorem witness_TableWordRunsFirst : tableTransaction 64 1 = some (.rsqrte 1) ∧ tableTransaction 8 31 = some (.lookup 31) := by decide

end Sys2Proof.Tests
end

section
/-!
PROOFS. The class of an operand by its fields, the two decoders of R38 and R50 as one, and RSQRTE's instructions against the whole function of R53.
-/

namespace Sys2Proof.Machine

/-! ### The classes of R50 by the fields -/

/-- R31, R32: a pattern is its three fields put together. -/
@[simp] theorem assemble_fields (x : Word) : assemble (signOf x) (expOf x) (mantOf x) = x :=
  eq_of_fields_eq (by simp) (by simp) (by simp)

theorem signOf_eq_one_or_zero (x : Word) : signOf x = 1 ∨ signOf x = 0 :=
  or_iff_not_imp_right.mpr bit_eq_one_of_ne_zero

/-- The classes of R50, each with what its fields are: the tests that fail before it are part of it. -/
theorem classOf_cases (x : Word) :
    (classOf x = .zero ∧ expOf x = 0 ∧ mantOf x = 0) ∨
    (classOf x = .pinf ∧ signOf x = 0 ∧ expOf x = 0x7FF ∧ mantOf x = 0) ∨
    (classOf x = .ninf ∧ signOf x = 1 ∧ expOf x = 0x7FF ∧ mantOf x = 0) ∨
    (classOf x = .nan ∧ expOf x = 0x7FF ∧ mantOf x ≠ 0) ∨
    (classOf x = .neg ∧ signOf x = 1 ∧ expOf x ≠ 0x7FF ∧ ¬(expOf x = 0 ∧ mantOf x = 0)) ∨
    (classOf x = .denorm ∧ signOf x = 0 ∧ expOf x = 0 ∧ mantOf x ≠ 0) ∨
    (classOf x = .norm ∧ signOf x = 0 ∧ expOf x ≠ 0 ∧ expOf x ≠ 0x7FF) := by
  have hs := signOf_eq_one_or_zero x
  unfold classOf classOfFields
  split_ifs <;> simp_all

/-! ### Decoding -/

/-- The rows of R38 are tried in order. -/
theorem classOfFirstHit_cons (r : OperandRow) (rs : List OperandRow) (x : Word) :
    ((r :: rs).find? (·.hits x)).map (·.cls) =
      if r.hits x = true then some r.cls else (rs.find? (·.hits x)).map (·.cls) := by
  cases h : r.hits x <;> simp [h]

/-- The first row of R38 that matches names the class of R50. -/
theorem rowClass_eq_classOf (x : Word) : rowClass x = some (classOf x) := by
  simp only [rowClass, operandRows, classOfFirstHit_cons, zeroRow_hits, pinfRow_hits, ninfRow_hits, nanRow_hits,
    negRow_hits, denormRow_hits, normRow_hits]
  rcases classOf_cases x with ⟨hc, hf⟩ | ⟨hc, hf⟩ | ⟨hc, hf⟩ | ⟨hc, hf⟩ | ⟨hc, hf⟩ | ⟨hc, hf⟩ | ⟨hc, hf⟩ <;>
    simp_all

theorem decode_rsqrte (x : Word) : decode (.rsqrte x) = some (instrOfClass (classOf x) x) := by
  simp [decode, rowClass_eq_classOf]

/-! ### RSQRTE -/

/-- R33, R69: the result by concatenation is the result by shifts and bitwise or. -/
theorem resultWord_eq_resultByShifts (sg : SignBit) (eo : ExpField) (frac : BitVec 26) :
    resultWord sg eo frac = resultByShifts sg eo frac := by
  apply BitVec.eq_of_getLsbD_eq
  intro k hk
  simp only [resultWord, resultByShifts, Params.fracShift, BitVec.getLsbD_append, BitVec.getLsbD_or,
    BitVec.getLsbD_shiftLeft, BitVec.getLsbD_setWidth]
  grind

/-- R69: the path's result in the shifts of R53. -/
theorem arithResult_eq_map_resultByShifts (rom : CalTable) (sg : SignBit) (E : Int) (m : MantField) :
    arithResult rom sg E m =
      (mantContribution (calRead rom (tableIndex E m)) (fineIndex m)).map (resultByShifts sg (outExponent E)) :=
  congrArg (Option.map · _) (funext (resultWord_eq_resultByShifts sg (outExponent E)))

/-- The arithmetic path drives Y with the path's result. -/
theorem arithPath_of_arithResult {sg : SignBit} {E : Int} {m : MantField} {s : State} {v : Word}
    (h : arithResult s.rom sg E m = some v) : arithPath sg E m s = .next (s.driveY v) := by
  simp [arithPath, h]

/-- With a ROM of the property of R47 the arithmetic path has a result. -/
theorem TableOk.arithResult_total {rom : CalTable} (h : TableOk rom) (sg : SignBit) (E : Int) (m : MantField) :
    ∃ v, arithResult rom sg E m = some v := by
  obtain ⟨f, hf, -⟩ := h.contribution (tableIndex E m) m
  exact ⟨_, congrArg (Option.map _) hf⟩

theorem rsqrte_of_zero (rom : CalTable) {x : Word} (he : expOf x = 0) (hm : mantOf x = 0) :
    rsqrte rom x = some (assemble (signOf x) 0x7FF 0) := by
  rcases signOf_eq_one_or_zero x with hs | hs <;> simp [rsqrte, hs, he, hm] <;> decide

theorem rsqrte_of_pinf (rom : CalTable) {x : Word} (hs : signOf x = 0) (he : expOf x = 0x7FF) (hm : mantOf x = 0) :
    rsqrte rom x = some 0x0000000000000000 := by
  simp [rsqrte, hs, he, hm]

theorem rsqrte_of_ninf (rom : CalTable) {x : Word} (hs : signOf x = 1) (he : expOf x = 0x7FF) (hm : mantOf x = 0) :
    rsqrte rom x = some Params.defaultQnan := by
  simp [rsqrte, hs, he, hm]

theorem rsqrte_of_nan (rom : CalTable) {x : Word} (he : expOf x = 0x7FF) (hm : mantOf x ≠ 0) :
    rsqrte rom x = some (x ||| Params.quietBit) := by
  simp_all [rsqrte]

theorem rsqrte_of_neg (rom : CalTable) {x : Word} (hs : signOf x = 1) (he : expOf x ≠ 0x7FF)
    (h0 : ¬(expOf x = 0 ∧ mantOf x = 0)) : rsqrte rom x = some Params.defaultQnan := by
  simp_all [rsqrte]

theorem rsqrte_of_denorm (rom : CalTable) {x : Word} (hs : signOf x = 0) (he : expOf x = 0) (hm : mantOf x ≠ 0) :
    rsqrte rom x = arithResult rom 0 (normalizeMant (mantOf x)).1 (normalizeMant (mantOf x)).2 := by
  simp_all [rsqrte, arithResult_eq_map_resultByShifts]

theorem rsqrte_of_norm (rom : CalTable) {x : Word} (hs : signOf x = 0) (he : expOf x ≠ 0) (he' : expOf x ≠ 0x7FF) :
    rsqrte rom x = arithResult rom 0 (expOf x).toNat (mantOf x) := by
  simp_all [rsqrte, arithResult_eq_map_resultByShifts]

/-- R53 is total on a ROM with the property of R47: only its arithmetic classes read an entry. -/
theorem TableOk.rsqrte_total {rom : CalTable} (h : TableOk rom) (x : Word) : ∃ v, rsqrte rom x = some v := by
  rcases classOf_cases x with ⟨-, he, hm⟩ | ⟨-, hs, he, hm⟩ | ⟨-, hs, he, hm⟩ | ⟨-, he, hm⟩ | ⟨-, hs, he, h0⟩ |
    ⟨-, hs, he, hm⟩ | ⟨-, hs, he, he'⟩
  · exact ⟨_, rsqrte_of_zero rom he hm⟩
  · exact ⟨_, rsqrte_of_pinf rom hs he hm⟩
  · exact ⟨_, rsqrte_of_ninf rom hs he hm⟩
  · exact ⟨_, rsqrte_of_nan rom he hm⟩
  · exact ⟨_, rsqrte_of_neg rom hs he h0⟩
  · rw [rsqrte_of_denorm rom hs he hm]
    exact h.arithResult_total ..
  · rw [rsqrte_of_norm rom hs he he']
    exact h.arithResult_total ..

/-- The instruction of an operand's class drives Y with the value of R53 and changes nothing else. -/
theorem exec_instrOfClass {s : State} {x v : Word} (h : rsqrte s.rom x = some v) :
    exec (instrOfClass (classOf x) x) s = .next (s.driveY v) := by
  rcases classOf_cases x with ⟨hc, he, hm⟩ | ⟨hc, hs, he, hm⟩ | ⟨hc, hs, he, hm⟩ | ⟨hc, he, hm⟩ | ⟨hc, hs, he, h0⟩ |
    ⟨hc, hs, he, hm⟩ | ⟨hc, hs, he, he'⟩ <;> rw [hc]
  · cases (rsqrte_of_zero s.rom he hm).symm.trans h
    rfl
  · cases (rsqrte_of_pinf s.rom hs he hm).symm.trans h
    rfl
  · cases (rsqrte_of_ninf s.rom hs he hm).symm.trans h
    rfl
  · cases (rsqrte_of_nan s.rom he hm).symm.trans h
    simp [instrOfClass, exec, execRsqrteNan, ← he]
  · cases (rsqrte_of_neg s.rom hs he h0).symm.trans h
    rfl
  · exact arithPath_of_arithResult ((rsqrte_of_denorm s.rom hs he hm).symm.trans h)
  · exact arithPath_of_arithResult ((rsqrte_of_norm s.rom hs he he').symm.trans h)

/-- An RSQRTE transaction takes its operand to X and drives Y with the value of R53. -/
theorem runTransaction_rsqrte {s : State} {x v : Word} (h : rsqrte s.rom x = some v) :
    runTransaction (.rsqrte x) s = .next ((s.present (.rsqrte x)).driveY v) := by
  rw [runTransaction_of_decode (decode_rsqrte x)]
  exact exec_instrOfClass (by simpa using h)

/-- Settles O34: the function is R53's on the given ROM, which is total by R47 and is what each class's instruction computes. -/
theorem rsqrteIsTotalFunction : Obligations.RsqrteIsTotalFunction := by
  intro rom hrom
  choose f hf using hrom.rsqrte_total
  refine ⟨f, hf, fun s x hs => ⟨_, runTransaction_rsqrte (v := f x) ?_, rfl⟩⟩
  rw [hs, hf]

end Sys2Proof.Machine
end

section
/-!
PROOFS. The state: what a completed instruction and a completed transaction leave, the host's read of Y, and the invariant from reset on.
-/

namespace Sys2Proof.Machine

/-! ### What a completed instruction leaves -/

theorem arithPath_next {sg : SignBit} {E : Int} {m : MantField} {s t : State} (h : arithPath sg E m s = .next t) :
    ∃ v, t = s.driveY v := by
  rcases arithPath_cases sg E m s with ⟨f, -, hn⟩ | ⟨-, hr⟩
  · rw [hn] at h
    cases h
    exact ⟨_, rfl⟩
  · rw [hr] at h
    cases h

/-- Inversion: an instruction that answers a next state has driven the outputs of its own unit, and nothing else. -/
theorem exec_next_cases {i : Instr} {s t : State} (h : exec i s = .next t) :
    ((encode i).drives = .top ∧ ∃ v, t = s.driveY v) ∨
    ((encode i).drives = .extractor ∧ ∃ o, t = s.driveExtracted o) ∨
    ((encode i).drives = .calibration ∧ ∃ c, t = s.driveEntry c) := by
  cases i with
  | rsqrteZero sg => cases h; exact .inl ⟨rfl, _, rfl⟩
  | rsqrtePinf => cases h; exact .inl ⟨rfl, _, rfl⟩
  | rsqrteNinf => cases h; exact .inl ⟨rfl, _, rfl⟩
  | rsqrteNan sg m => cases h; exact .inl ⟨rfl, _, rfl⟩
  | rsqrteNeg e m => cases h; exact .inl ⟨rfl, _, rfl⟩
  | rsqrteDenorm m => exact .inl ⟨rfl, arithPath_next h⟩
  | rsqrteNorm e m => exact .inl ⟨rfl, arithPath_next h⟩
  | extract x => cases h; exact .inr (.inl ⟨rfl, _, rfl⟩)
  | lookup idx => cases h; exact .inr (.inr ⟨rfl, _, rfl⟩)

theorem exec_rom {i : Instr} {s t : State} (h : exec i s = .next t) : t.rom = s.rom := by
  rcases exec_next_cases h with ⟨-, v, rfl⟩ | ⟨-, o, rfl⟩ | ⟨-, c, rfl⟩ <;> simp

theorem exec_lookup (k : RomIndex) (s : State) : exec (.lookup k) s = .next (s.driveEntry (calRead s.rom k)) := rfl

/-! ### What a completed transaction leaves -/

theorem arithPath_of_arithResult_none {sg : SignBit} {E : Int} {m : MantField} {s : State}
    (h : arithResult s.rom sg E m = none) : arithPath sg E m s = .refused .calTableOutOfRange := by
  simp [arithPath, h]

/-- Where R53 has no value the entry read is refused: the operand is of an arithmetic class. -/
theorem exec_instrOfClass_of_none {s : State} {x : Word} (h : rsqrte s.rom x = none) :
    exec (instrOfClass (classOf x) x) s = .refused .calTableOutOfRange := by
  rcases classOf_cases x with ⟨-, he, hm⟩ | ⟨-, hs, he, hm⟩ | ⟨-, hs, he, hm⟩ | ⟨-, he, hm⟩ | ⟨-, hs, he, h0⟩ |
    ⟨hc, hs, he, hm⟩ | ⟨hc, hs, he, he'⟩
  · cases (rsqrte_of_zero s.rom he hm).symm.trans h
  · cases (rsqrte_of_pinf s.rom hs he hm).symm.trans h
  · cases (rsqrte_of_ninf s.rom hs he hm).symm.trans h
  · cases (rsqrte_of_nan s.rom he hm).symm.trans h
  · cases (rsqrte_of_neg s.rom hs he h0).symm.trans h
  · rw [hc]
    exact arithPath_of_arithResult_none ((rsqrte_of_denorm s.rom hs he hm).symm.trans h)
  · rw [hc]
    exact arithPath_of_arithResult_none ((rsqrte_of_norm s.rom hs he he').symm.trans h)

/-- Inversion: a completed RSQRTE has a value of R53, and drives Y with it. -/
theorem runTransaction_rsqrte_next {s u : State} {x : Word} (h : runTransaction (.rsqrte x) s = .next u) :
    ∃ v, rsqrte s.rom x = some v ∧ u = (s.present (.rsqrte x)).driveY v := by
  cases hv : rsqrte s.rom x with
  | some v =>
    rw [runTransaction_rsqrte hv] at h
    cases h
    exact ⟨v, rfl, rfl⟩
  | none =>
    rw [runTransaction_of_decode (decode_rsqrte x), exec_instrOfClass_of_none (by simpa using hv)] at h
    cases h

theorem runTransaction_extract (x : Word) (s : State) :
    runTransaction (.extract x) s = .next ((s.present (.extract x)).driveExtracted (extractOf x)) := rfl

theorem runTransaction_lookup (idx : RomIndex) (s : State) :
    runTransaction (.lookup idx) s = .next ((s.present (.lookup idx)).driveEntry (calRead s.rom idx)) := rfl

/-- With a ROM of the property of R47 every transaction completes. -/
theorem TableOk.runTransaction_completes {s : State} (h : TableOk s.rom) (t : Transaction) :
    ∃ u, runTransaction t s = .next u := by
  cases t with
  | rsqrte x =>
    obtain ⟨v, hv⟩ := h.rsqrte_total x
    exact ⟨_, runTransaction_rsqrte hv⟩
  | extract x => exact ⟨_, runTransaction_extract x s⟩
  | lookup idx => exact ⟨_, runTransaction_lookup idx s⟩

theorem runTransaction_rom {t : Transaction} {s u : State} (h : runTransaction t s = .next u) : u.rom = s.rom := by
  unfold runTransaction at h
  split at h
  · simpa using exec_rom h
  · cases h

/-- R53, R49, R45: the result of a transaction, which depends on the ROM alone. -/
def transactionResult (t : Transaction) (rom : CalTable) : Option UnitOutput :=
  match t with
  | .rsqrte x => (rsqrte rom x).map .word
  | .extract x => some (.fields (extractOf x))
  | .lookup idx => some (.entry (calRead rom idx))

theorem outputOf_runTransaction {t : Transaction} {s u : State} (h : runTransaction t s = .next u) :
    u.outputOf t.drives = transactionResult t s.rom := by
  cases t with
  | rsqrte x =>
    obtain ⟨v, hv, rfl⟩ := runTransaction_rsqrte_next h
    simp [Transaction.drives, State.outputOf, transactionResult, hv]
  | extract x => cases h; rfl
  | lookup idx => cases h; rfl

/-- A transaction starts by releasing the sub-blocks' ports (R13), so two states that agree but for those ports run it alike. -/
theorem runTransaction_congr {s s' : State} (h : s.releaseSubBlocks = s'.releaseSubBlocks) (t : Transaction) :
    runTransaction t s = runTransaction t s' := by
  have hp : s.present t = s'.present t := by
    rw [← s.present_releaseSubBlocks, h, s'.present_releaseSubBlocks]
  simp only [runTransaction, hp]

/-- A transaction of a sub-block changes nothing but the sub-blocks' ports. -/
theorem releaseSubBlocks_runTransaction {t : Transaction} {s u : State} (ht : t.drives ≠ .top)
    (h : runTransaction t s = .next u) : u.releaseSubBlocks = s.releaseSubBlocks := by
  cases t with
  | rsqrte x => exact absurd rfl ht
  | extract x => cases h; rfl
  | lookup idx => cases h; rfl

/-- A transaction of a sub-block may run before or after any other. -/
theorem releaseSubBlocks_comm {a t : Transaction} {s sa sat st sta : State} (ht : t.drives ≠ .top)
    (hsa : runTransaction a s = .next sa) (hsat : runTransaction t sa = .next sat)
    (hst : runTransaction t s = .next st) (hsta : runTransaction a st = .next sta) :
    sat.releaseSubBlocks = sta.releaseSubBlocks := by
  have hrun : runTransaction a st = runTransaction a s :=
    runTransaction_congr (releaseSubBlocks_runTransaction ht hst) a
  rw [hsta, hsa] at hrun
  cases hrun
  exact releaseSubBlocks_runTransaction ht hsat

/-! ### The invariant -/

theorem State.Inv.setHost {s : State} (h : s.Inv) (acts : List HostAction) : (s.setHost acts).Inv :=
  ⟨h.table, h.top, h.extractor, h.lookup, h.read⟩

theorem State.Inv.recordRead {s : State} {v : Word} (h : s.Inv) (hy : s.y = some v) : (s.recordRead v).Inv :=
  ⟨h.table, h.top, h.extractor, h.lookup, fun _ => by simp [hy]⟩

/-- The unit driven has its function's value at its outputs; the sub-blocks not driven carry nothing, and X and Y are kept. -/
theorem State.Inv.runTransaction {t : Transaction} {s u : State} (hs : s.Inv) (h : runTransaction t s = .next u) :
    u.Inv := by
  cases t with
  | rsqrte x =>
    obtain ⟨v, hv, rfl⟩ := runTransaction_rsqrte_next h
    exact ⟨hs.table, hv.symm, rfl, rfl, fun _ => rfl⟩
  | extract x =>
    cases h
    exact ⟨hs.table, hs.top, rfl, rfl, hs.read⟩
  | lookup idx =>
    cases h
    exact ⟨hs.table, hs.top, rfl, rfl, hs.read⟩

/-- The lines of a ROM fall, so its property of R47 is that their last points are positive. -/
theorem tableOk_of_last_point {rom : CalTable}
    (h : ∀ idx, (calRead rom idx).dec.toNat * 2047 < (calRead rom idx).base.toNat) : TableOk rom := by
  intro idx fine hf
  have hlast := h idx
  have hbase := (calRead rom idx).base.isLt
  have hle : (calRead rom idx).dec.toNat * fine ≤ (calRead rom idx).dec.toNat * 2047 := Nat.mul_le_mul_left _ (by omega)
  rw [← Int.natCast_mul]
  omega

theorem calTable_ok : TableOk Params.calTable :=
  tableOk_of_last_point (by decide)

/-! ### The obligations -/

/-- Settles O44: a step is idle, a transaction or a read of Y, and each keeps the invariant. -/
theorem stepKeepsInv : Obligations.StepKeepsInv := by
  intro s t hs h
  rcases step_next_cases h with ⟨-, rfl⟩ | ⟨tr, i, rest, -, hd, hi⟩ | ⟨v, rest, -, hy, rfl⟩
  · exact hs
  · rw [← runTransaction_of_decode hd] at hi
    exact (hs.setHost rest).runTransaction hi
  · exact (hs.setHost rest).recordRead hy

/-- Settles O11: no instruction writes the ROM, and the entry depends on nothing else. -/
theorem lookupUnchangedByHistory : Obligations.LookupUnchangedByHistory := by
  intro i k s t h
  rw [← exec_rom h]
  exact exec_lookup k t

/-- Settles O40, by the inversion of exec. -/
theorem oneOutputPerInstruction : Obligations.OneOutputPerInstruction := by
  intro i s t h
  rcases exec_next_cases h with ⟨hd, v, rfl⟩ | ⟨hd, o, rfl⟩ | ⟨hd, c, rfl⟩ <;> rw [hd] <;> rfl

/-- Settles O41: neither an instruction nor the host writes the ROM. -/
theorem romIsNeverWritten : Obligations.RomIsNeverWritten := by
  intro s t h
  rcases step_next_cases h with ⟨-, rfl⟩ | ⟨tr, i, rest, -, -, hi⟩ | ⟨v, rest, -, -, rfl⟩
  · rfl
  · simpa using exec_rom hi
  · rfl

/-- Settles O42: a result depends on the ROM alone, which is never written; and of two different units one is a sub-block. -/
theorem orderDoesNotMatter : Obligations.OrderDoesNotMatter := by
  intro a b s hrom
  obtain ⟨sa, ha⟩ := hrom.runTransaction_completes a
  obtain ⟨sb, hb⟩ := hrom.runTransaction_completes b
  have hra : sa.rom = s.rom := runTransaction_rom ha
  have hrb : sb.rom = s.rom := runTransaction_rom hb
  obtain ⟨sab, hab⟩ := TableOk.runTransaction_completes (hra ▸ hrom) b
  obtain ⟨sba, hba⟩ := TableOk.runTransaction_completes (hrb ▸ hrom) a
  refine ⟨sa, sab, sb, sba, ha, hab, hb, hba, ?_, ?_, fun hne => ?_⟩
  · rw [outputOf_runTransaction ha, outputOf_runTransaction hba, hrb]
  · rw [outputOf_runTransaction hb, outputOf_runTransaction hab, hra]
  · by_cases hbt : b.drives = .top
    · exact (releaseSubBlocks_comm (hbt ▸ hne) hb hba ha hab).symm
    · exact releaseSubBlocks_comm hbt ha hab hb hba

/-- Settles O43, by the host's action: only a read of Y can stop. -/
theorem stepStopsOnlyOnEarlyRead : Obligations.StepStopsOnlyOnEarlyRead := by
  intro s hrom
  cases hh : s.host with
  | nil => exact .inl ⟨s, step_idle hh⟩
  | cons act rest =>
    cases act with
    | present t =>
      rw [step_present hh]
      exact .inl (TableOk.runTransaction_completes (s := s.setHost rest) hrom t)
    | readY =>
      rw [step_readY hh]
      rcases readY_cases (s.setHost rest) with ⟨hy, hf⟩ | ⟨v, -, hn⟩
      · exact .inr ⟨hf, hy, rfl⟩
      · exact .inl ⟨_, hn⟩

/-- Settles O49: presenting releases the sub-blocks' ports, and then only the driven unit's ports get a value. -/
theorem onlyXAndYAreKept : Obligations.OnlyXAndYAreKept := by
  intro t s
  refine ⟨fun _ _ _ _ => runTransaction_congr rfl t, fun u h => ?_⟩
  cases t with
  | rsqrte x =>
    obtain ⟨v, -, rfl⟩ := runTransaction_rsqrte_next h
    simp [Transaction.drives]
  | extract x =>
    cases h
    exact ⟨fun hne => absurd rfl hne, fun _ => ⟨rfl, rfl⟩, fun _ => ⟨rfl, rfl⟩⟩
  | lookup idx =>
    cases h
    exact ⟨fun _ => ⟨rfl, rfl⟩, fun hne => absurd rfl hne, fun _ => ⟨rfl, rfl⟩⟩

/-- Settles O38: with no action pending the step is the idle one. -/
theorem idleStepChangesNothing : Obligations.IdleStepChangesNothing :=
  fun _ => step_idle

/-- Settles O39, by the two cases of a read of Y. -/
theorem readOfResultPort : Obligations.ReadOfResultPort := by
  intro s rest hh
  rw [step_readY hh]
  rcases readY_cases (s.setHost rest) with ⟨hy, hf⟩ | ⟨v, hy, hn⟩ <;> rw [State.setHost_y] at hy
  · exact ⟨fun _ => hf, fun w hw => by simp [hy] at hw⟩
  · refine ⟨fun hnone => by simp [hy] at hnone, fun w hw => ?_⟩
    cases hy.symm.trans hw
    exact hn

/-- Settles O45: CAL_TABLE has the property of R47, and no port holds a value. -/
theorem resetHasInv : Obligations.ResetHasInv :=
  ⟨calTable_ok, rfl, rfl, rfl, nofun⟩

/-- Settles O46: CAL_TABLE has the property of R47, so every first transaction completes. -/
theorem resetHoldsOnlyTheRom : Obligations.ResetHoldsOnlyTheRom := by
  refine ⟨rfl, rfl, rfl, rfl, rfl, rfl, rfl, fun t => ?_⟩
  rw [step_present (t := t) (rest := []) rfl]
  exact TableOk.runTransaction_completes (s := (State.reset.placeFirst t).setHost []) resetHasInv.table t

end Sys2Proof.Machine
end

section
/-!
PROOFS. What RSQRTE reads of the ROM (R23): no entry on a special case, one entry on the arithmetic path.
-/

namespace Sys2Proof.Machine

/-- Settles O17, by the instruction: a special-case arm drives Y with a value made of its own fields, and the operand of an arithmetic one has an
excluded class. -/
theorem specialCasesReadNoRom : Obligations.SpecialCasesReadNoRom := by
  intro i x hwf henc hdenorm hnorm
  cases i with
  | rsqrteZero sg => exact ⟨_, fun _ => rfl⟩
  | rsqrtePinf => exact ⟨_, fun _ => rfl⟩
  | rsqrteNinf => exact ⟨_, fun _ => rfl⟩
  | rsqrteNan sg m => exact ⟨_, fun _ => rfl⟩
  | rsqrteNeg e m => exact ⟨_, fun _ => rfl⟩
  | rsqrteDenorm m =>
    cases henc
    exact absurd (Option.some.inj (Laws.OperandOfClass.rsqrteDenorm m hwf)).symm hdenorm
  | rsqrteNorm e m =>
    cases henc
    exact absurd (Option.some.inj (Laws.OperandOfClass.rsqrteNorm e m hwf)).symm hnorm
  | extract y => cases henc
  | lookup idx => cases henc

/-- R68, R69: the path's result depends on the ROM through the entry at its table index alone. -/
theorem arithResult_congr_entry {rom rom' : CalTable} {E : Int} {m : MantField}
    (h : calRead rom' (tableIndex E m) = calRead rom (tableIndex E m)) (sg : SignBit) :
    arithResult rom' sg E m = arithResult rom sg E m := by
  simp only [arithResult, h]

/-- Where the arithmetic path completes, Y holds the path's result. -/
theorem arithResult_of_arithPath_next {sg : SignBit} {E : Int} {m : MantField} {s t : State}
    (h : arithPath sg E m s = .next t) : arithResult s.rom sg E m = t.y := by
  cases hr : arithResult s.rom sg E m with
  | some v =>
    rw [arithPath_of_arithResult hr] at h
    cases h
    rfl
  | none =>
    rw [arithPath_of_arithResult_none hr] at h
    cases h

/-- The arithmetic path gives the same result on a ROM that agrees on the entry it reads. -/
theorem arithPath_congr_entry {sg : SignBit} {E : Int} {m : MantField} {s : State} {r : CalTable} {v : Word}
    (hread : calRead r (tableIndex E m) = calRead s.rom (tableIndex E m))
    (h : arithPath sg E m s = .next (s.driveY v)) :
    arithPath sg E m { s with rom := r } = .next (State.driveY { s with rom := r } v) :=
  arithPath_of_arithResult ((arithResult_congr_entry hread sg).trans (arithResult_of_arithPath_next h))

/-- Settles O30: both arithmetic classes run the one path. -/
theorem arithReadsOneEntry : Obligations.ArithReadsOneEntry :=
  ⟨fun _ _ _ _ _ => arithPath_congr_entry, fun _ _ _ _ => arithPath_congr_entry⟩

end Sys2Proof.Machine
end

section
/-!
PROOFS. The encoding: decode and encode as inverses (R38, R41), the fields of a pattern and the slices of a mantissa as numbers (R32, R35, R36,
R48), and the layout of a result (R33).
-/

namespace Sys2Proof.Machine

/-! ### Decode and encode -/

/-- The field class of a well-formed instruction's operand, over all instructions. -/
theorem operandOfClass (i : Instr) : Laws.OperandOfClass.Statement i := by
  cases i with
  | rsqrteZero sg => exact Laws.OperandOfClass.rsqrteZero sg
  | rsqrtePinf => exact Laws.OperandOfClass.rsqrtePinf
  | rsqrteNinf => exact Laws.OperandOfClass.rsqrteNinf
  | rsqrteNan sg m => exact Laws.OperandOfClass.rsqrteNan sg m
  | rsqrteNeg e m => exact Laws.OperandOfClass.rsqrteNeg e m
  | rsqrteDenorm m => exact Laws.OperandOfClass.rsqrteDenorm m
  | rsqrteNorm e m => exact Laws.OperandOfClass.rsqrteNorm e m
  | extract x => exact Laws.OperandOfClass.extract x
  | lookup idx => exact Laws.OperandOfClass.lookup idx

/-- R42: an operand holds the fields of the instruction it encodes, in the places its class leaves open. -/
theorem instrOfClass_of_encode {i : Instr} {c : OperandClass} {x : Word} (hc : Laws.OperandOfClass.classOfInstr i = some c)
    (henc : encode i = .rsqrte x) : instrOfClass c x = i := by
  cases i <;> cases hc <;> cases henc <;> simp [instrOfClass]

/-- R38: the instruction decoded from an operand meets its row's condition. -/
theorem instrOfClass_wellFormed (x : Word) : (instrOfClass (classOf x) x).wellFormed = true := by
  rcases classOf_cases x with ⟨hc, -⟩ | ⟨hc, -⟩ | ⟨hc, -⟩ | ⟨hc, -, hm⟩ | ⟨hc, -, he, h0⟩ | ⟨hc, -, -, hm⟩ | ⟨hc, -, he⟩ <;>
    rw [hc]
  · rfl
  · rfl
  · rfl
  · simpa [instrOfClass, Instr.wellFormed] using hm
  · simpa [instrOfClass, Instr.wellFormed, ← Decidable.imp_iff_not_or] using And.intro he h0
  · simpa [instrOfClass, Instr.wellFormed] using hm
  · simpa [instrOfClass, Instr.wellFormed] using he

/-- R32, R41: the fields a class fixes are those of the operand, so no bit is dropped. -/
theorem encode_instrOfClass (x : Word) : encode (instrOfClass (classOf x) x) = .rsqrte x := by
  rcases classOf_cases x with ⟨hc, hf⟩ | ⟨hc, hf⟩ | ⟨hc, hf⟩ | ⟨hc, hf⟩ | ⟨hc, hf⟩ | ⟨hc, hf⟩ | ⟨hc, hf⟩ <;>
    simp [hc, instrOfClass, encode, eq_iff_fields, hf]

/-- R39: there is no operand that does not decode. -/
theorem decode_total (t : Transaction) : ∃ i, decode t = some i := by
  cases t with
  | rsqrte x => exact ⟨_, decode_rsqrte x⟩
  | extract x => exact ⟨_, rfl⟩
  | lookup idx => exact ⟨_, rfl⟩

/-- Settles O1: a well-formed instruction's operand has its class by the fields, the decode is by that class, and it reads the fields back. -/
theorem decodeOfEncode : Obligations.DecodeOfEncode := by
  intro i hwf
  have hclass := operandOfClass i hwf
  cases henc : encode i with
  | rsqrte x =>
    rw [henc] at hclass
    rw [decode_rsqrte, instrOfClass_of_encode hclass henc]
  | extract x =>
    rw [henc] at hclass
    exact congrArg some hclass.symm
  | lookup idx =>
    rw [henc] at hclass
    exact congrArg some hclass.symm

/-- Settles O2, by the unit driven; an operand of RSQRTE decodes by its class. -/
theorem encodeOfDecode : Obligations.EncodeOfDecode := by
  intro t i h
  cases t with
  | rsqrte x =>
    cases (decode_rsqrte x).symm.trans h
    exact ⟨instrOfClass_wellFormed x, encode_instrOfClass x⟩
  | extract x => cases h; exact ⟨rfl, rfl⟩
  | lookup idx => cases h; exact ⟨rfl, rfl⟩

/-- Settles O4: each row of R38 asks what the class of R50 asks, and both take the first that holds. -/
theorem rowDecodeIsFieldClass : Obligations.RowDecodeIsFieldClass :=
  rowClass_eq_classOf

/-- Settles O5: a transaction decodes, and running it is exec of what it decodes to. -/
theorem everyTransactionCompletes : Obligations.EveryTransactionCompletes := by
  intro t s hrom
  obtain ⟨i, hi⟩ := decode_total t
  obtain ⟨u, hu⟩ := hrom.runTransaction_completes t
  exact ⟨i, u, hi, (runTransaction_of_decode hi s).symm.trans hu, hu⟩

/-- Settles O6: each pattern is the operand of a well-formed instruction, which decode gives back. -/
theorem classTestOrder : Obligations.ClassTestOrder := by
  refine ⟨fun sg m hm => ?_, fun m hm => ?_, fun e m h0 h1 => ?_, fun sg => ?_⟩
  · exact decodeOfEncode (.rsqrteNan sg m) (by simpa [Instr.wellFormed] using hm)
  · exact decodeOfEncode (.rsqrteNeg 0 m) (by simpa [Instr.wellFormed] using hm)
  · exact decodeOfEncode (.rsqrteNeg e m) (by simp_all [Instr.wellFormed])
  · exact decodeOfEncode (.rsqrteZero sg) rfl

/-- Settles O3: the decoder evaluated on each word. -/
theorem knownWordsDecode : Obligations.KnownWordsDecode := by
  unfold Obligations.KnownWordsDecode
  decide

/-! ### The fields of a pattern -/

/-- A concatenation as a number: the upper part counts in units of the lower part's range. -/
theorem toNat_append_eq_mul_add {n k : Nat} (a : BitVec n) (b : BitVec k) : (a ++ b).toNat = a.toNat * 2 ^ k + b.toNat := by
  rw [BitVec.toNat_append, ← Nat.shiftLeft_add_eq_or_of_lt b.isLt, Nat.shiftLeft_eq]

theorem signOf_toNat (x : Word) : (signOf x).toNat = x.toNat / 2 ^ 63 := by
  have := x.isLt
  simp only [signOf, BitVec.extractLsb'_toNat, Nat.shiftRight_eq_div_pow]
  omega

theorem expOf_toNat (x : Word) : (expOf x).toNat = x.toNat / 2 ^ 52 % 2 ^ 11 := by
  simp [expOf, Nat.shiftRight_eq_div_pow]

theorem mantOf_toNat (x : Word) : (mantOf x).toNat = x.toNat % 2 ^ 52 := by
  simp [mantOf]

/-- Settles O50, field by field. -/
theorem fieldsAreLossless : Obligations.FieldsAreLossless :=
  fun x => ⟨signOf_toNat x, expOf_toNat x, mantOf_toNat x, assemble_fields x⟩

/-- Settles O9: EXTRACT drives the three fields of R48. -/
theorem extractIsLossless : Obligations.ExtractIsLossless :=
  fun x _ => ⟨extractOf x, rfl, assemble_fields x⟩

/-! ### The slices of a mantissa -/

/-- R66: the mantissa index is m[51:37]. -/
theorem mantIndex_eq_slice (m : MantField) : mantIndex m = (m.extractLsb' 37 15).toNat := by
  have := mantIndex_lt m
  rw [BitVec.extractLsb'_toNat]
  exact (Nat.mod_eq_of_lt this).symm

/-- R66: the coarse index is m[51:48]. -/
theorem coarseIndex_eq_slice (m : MantField) : coarseIndex m = (m.extractLsb' 48 4).toNat := by
  have := coarseIndex_lt m
  rw [BitVec.extractLsb'_toNat, show m.toNat >>> 48 = coarseIndex m from Nat.shiftRight_add m.toNat 37 11]
  omega

/-- R35: the table index is the odd-exponent flag above the coarse index. -/
theorem tableIndex_eq_append (E : Int) (m : MantField) :
    tableIndex E m = BitVec.ofBool (oddFlag E) ++ m.extractLsb' 48 4 := by
  apply BitVec.eq_of_toNat_eq
  rw [tableIndex_toNat, coarseIndex_eq_slice, toNat_append_eq_mul_add, BitVec.toNat_ofBool, Nat.add_comm]
  cases oddFlag E <;> rfl

/-- Settles O24: the table index is a concatenation. -/
theorem tableIndexLayout : Obligations.TableIndexLayout := by
  intro E m
  refine ⟨?_, ?_, ?_⟩
  · rw [tableIndex_eq_append, BitVec.getLsbD_append]
    simp
  · rw [tableIndex_eq_append]
    exact BitVec.extractLsb'_append_eq_right
  · rw [tableIndex_toNat, coarseIndex_eq_slice]
    split <;> omega

/-- R36: the arithmetic path reads the mantissa through its index alone. -/
theorem arithPath_congr_mantIndex {m m' : MantField} (h : mantIndex m = mantIndex m') (sg : SignBit) (E : Int) (s : State) :
    arithPath sg E m s = arithPath sg E m' s := by
  have hresult : arithResult s.rom sg E m = arithResult s.rom sg E m' := by
    simp only [arithResult, tableIndex, coarseIndex, fineIndex, h]
  simp only [arithPath, hresult]

/-- Settles O26: the index is the slice above the ignored bits. -/
theorem lowMantissaBitsIgnored : Obligations.LowMantissaBitsIgnored := by
  intro e m m' s h
  have hindex : mantIndex m = mantIndex m' := by rw [mantIndex_eq_slice, mantIndex_eq_slice, h]
  exact arithPath_congr_mantIndex hindex 0 e.toNat s

/-! ### The result -/

/-- Settles O27: the concatenation read as a number. -/
theorem resultLayout : Obligations.ResultLayout := by
  intro sg eo frac
  refine ⟨resultWord_eq_resultByShifts sg eo frac, ?_⟩
  simp only [resultWord, toNat_append_eq_mul_add, BitVec.ofNat_eq_ofNat, BitVec.toNat_ofNat, Nat.zero_mod]
  ring

end Sys2Proof.Machine
end

section
/-!
PROOFS. The calibration ROM: the entry LOOKUP drives (R45), the range of the lines of CAL_TABLE (R47), and the entries the arithmetic path refuses
(U6).
-/

namespace Sys2Proof.Machine

/-! ### The lines of CAL_TABLE -/

/-- An entry's line falls from its base to its last point, at fine index 2047. -/
theorem entryLine_bounds (c : CalEntry) {fine : Nat} (h : fine < 2048) :
    (c.base.toNat : Int) - c.dec.toNat * 2047 ≤ (c.base.toNat : Int) - c.dec.toNat * fine ∧
      (c.base.toNat : Int) - c.dec.toNat * fine ≤ c.base.toNat := by
  have hle : c.dec.toNat * fine ≤ c.dec.toNat * 2047 := Nat.mul_le_mul_left _ (by omega)
  rw [← Int.natCast_mul]
  omega

theorem calTable_last_point_ge (idx : RomIndex) :
    523 ≤ ((calRead Params.calTable idx).base.toNat : Int) - (calRead Params.calTable idx).dec.toNat * 2047 := by
  revert idx; decide

theorem calTable_base_le (idx : RomIndex) : ((calRead Params.calTable idx).base.toNat : Int) ≤ 0x3FFA000 := by
  revert idx; decide

/-- Settles O28: a line lies between its last point and its base, and the 32 of each are in the range. -/
theorem calTableInRange : Obligations.CalTableInRange := by
  refine ⟨calTable_ok, fun idx fine hf => ?_, by decide, by decide⟩
  obtain ⟨hlast, hbase⟩ := entryLine_bounds (calRead Params.calTable idx) hf
  exact ⟨(calTable_last_point_ge idx).trans hlast, hbase.trans (calTable_base_le idx)⟩

/-! ### The refusal -/

/-- U6: the arithmetic path is refused exactly where the contribution of the entry read would be negative. -/
theorem arithPath_eq_refused_iff {sg : SignBit} {E : Int} {m : MantField} {s : State} :
    arithPath sg E m s = .refused .calTableOutOfRange ↔
      (calRead s.rom (tableIndex E m)).base.toNat < (calRead s.rom (tableIndex E m)).dec.toNat * fineIndex m := by
  rw [← mantContribution_eq_none]
  rcases arithPath_cases sg E m s with ⟨f, hf, hn⟩ | ⟨hnone, hr⟩
  · simp [hf, hn]
  · simp [hnone, hr]

/-- Settles O32: both arithmetic classes run the one path. -/
theorem brokenEntryIsRefused : Obligations.BrokenEntryIsRefused :=
  ⟨fun _ _ _ => arithPath_eq_refused_iff, fun _ _ => arithPath_eq_refused_iff⟩

/-! ### LOOKUP -/

/-- Settles O10: LOOKUP drives its outputs with the entry read, whole. -/
theorem lookupReturnsEntry : Obligations.LookupReturnsEntry :=
  fun idx s => exec_lookup idx s

end Sys2Proof.Machine
end

section
/-!
PROOFS. The field extractor: the fields EXTRACT drives (R48), and its class with the class lines (R49, R50).
-/

namespace Sys2Proof.Machine

/-- R32: the fields' numbers, each weighed by its place, are the operand's. -/
theorem fields_sum_eq_toNat (x : Word) :
    (signOf x).toNat * 2 ^ 63 + (expOf x).toNat * 2 ^ 52 + (mantOf x).toNat = x.toNat := by
  calc (signOf x).toNat * 2 ^ 63 + (expOf x).toNat * 2 ^ 52 + (mantOf x).toNat
      = (assemble (signOf x) (expOf x) (mantOf x)).toNat := by
        simp only [assemble, toNat_append_eq_mul_add]
        ring
    _ = x.toNat := congrArg BitVec.toNat (assemble_fields x)

/-- Settles O7: EXTRACT drives the three fields of R48, which are read as numbers. -/
theorem extractDrivesFields : Obligations.ExtractDrivesFields :=
  fun x _ => ⟨extractOf x, rfl, signOf_toNat x, expOf_toNat x, mantOf_toNat x, fields_sum_eq_toNat x⟩

/-! ### The tests of R50, each with the ones before it failed -/

theorem classOf_eq_zero {x : Word} (h : expOf x = 0 ∧ mantOf x = 0) : classOf x = .zero := by
  simp [classOf, classOfFields, h]

theorem classOf_eq_pinf {x : Word} (h : expOf x = 0x7FF ∧ mantOf x = 0 ∧ signOf x = 0) : classOf x = .pinf := by
  simp [classOf, classOfFields, h]

theorem classOf_eq_ninf {x : Word} (h : expOf x = 0x7FF ∧ mantOf x = 0 ∧ signOf x = 1) : classOf x = .ninf := by
  simp [classOf, classOfFields, h]

theorem classOf_eq_nan {x : Word} (h : expOf x = 0x7FF ∧ mantOf x ≠ 0) : classOf x = .nan := by
  simp_all [classOf, classOfFields]

theorem classOf_eq_neg {x : Word} (h : signOf x = 1 ∧ expOf x ≠ 0x7FF ∧ ¬(expOf x = 0 ∧ mantOf x = 0)) :
    classOf x = .neg := by
  simp_all [classOf, classOfFields]

theorem classOf_eq_denorm {x : Word} (h : signOf x = 0 ∧ expOf x = 0 ∧ mantOf x ≠ 0) : classOf x = .denorm := by
  simp_all [classOf, classOfFields]

theorem classOf_eq_norm {x : Word} (h : signOf x = 0 ∧ expOf x ≠ 0 ∧ expOf x ≠ 0x7FF) : classOf x = .norm := by
  simp_all [classOf, classOfFields]

/-! ### The class lines -/

/-- A line that is at 1 for a class is so where that class is driven. -/
theorem class_eq_and_line {c k : OperandClass} {line : ClassLines → Bool} (hc : c = k) (hline : line (classLines k) = true) :
    c = k ∧ line (classLines c) = true :=
  ⟨hc, hc ▸ hline⟩

/-- R50: whatever the class, one line is at 1. -/
theorem classLines_count_true (c : OperandClass) : (classLines c).toList.count true = 1 := by
  cases c <;> rfl

/-- Settles O8, clause by clause: the fields meet the first test of R50 that holds, and its line is at 1. -/
theorem extractDrivesClass : Obligations.ExtractDrivesClass :=
  fun x _ => ⟨extractOf x, rfl,
    fun h => class_eq_and_line (classOf_eq_zero h) rfl,
    fun h => class_eq_and_line (classOf_eq_pinf h) rfl,
    fun h => class_eq_and_line (classOf_eq_ninf h) rfl,
    fun h => class_eq_and_line (classOf_eq_nan h) rfl,
    fun h => class_eq_and_line (classOf_eq_neg h) rfl,
    fun h => class_eq_and_line (classOf_eq_denorm h) rfl,
    fun h => class_eq_and_line (classOf_eq_norm h) rfl,
    classLines_count_true (classOf x)⟩

end Sys2Proof.Machine
end

section
/-!
PROOFS. RSQRTE of the special cases: the operand's decode and its result, class by class (R56 to R60).
-/

namespace Sys2Proof.Machine

/-! ### A completed RSQRTE, by the operand's class -/

/-- An operand decodes to the instruction of its class, which drives Y with the value of R53. -/
theorem decode_and_exec_of_class {s : State} {x v : Word} {c : OperandClass} (hc : classOf x = c)
    (hv : rsqrte s.rom x = some v) :
    decode (.rsqrte x) = some (instrOfClass c x) ∧ exec (instrOfClass c x) s = .next (s.driveY v) := by
  subst hc
  exact ⟨decode_rsqrte x, exec_instrOfClass hv⟩

/-! ### Zeros, infinities and negative numbers -/

/-- R48: the sign field is bit 63. -/
theorem signOf_eq_ofBool (x : Word) : signOf x = BitVec.ofBool (x.getLsbD 63) := by
  apply BitVec.eq_of_getLsbD_eq
  intro k hk
  obtain rfl : k = 0 := by omega
  simp [signOf]

/-- R38: what the mask of row RSQRTE.ZERO asks. -/
theorem fields_of_zero_mask {x : Word} (h : x &&& 0x7FFFFFFFFFFFFFFF = 0x0000000000000000) : expOf x = 0 ∧ mantOf x = 0 :=
  (zeroRow_hits x).mp (by simpa [OperandRow.hits, RowCondition.holds] using h)

/-- R32: the infinity of a sign, written out. -/
theorem assemble_infinity (b : Bool) :
    assemble (BitVec.ofBool b) 0x7FF 0 = if b then 0xFFF0000000000000 else 0x7FF0000000000000 := by
  revert b; decide

/-- Settles O12: the row's mask makes the operand a zero, and the infinity of R53 has its sign. -/
theorem zeroGivesSignedInfinity : Obligations.ZeroGivesSignedInfinity := by
  intro x s h
  obtain ⟨he, hm⟩ := fields_of_zero_mask h
  have hv := rsqrte_of_zero s.rom he hm
  rw [signOf_eq_ofBool, assemble_infinity] at hv
  exact decode_and_exec_of_class (classOf_eq_zero ⟨he, hm⟩) hv

/-- Settles O13: the fields of +infinity are those of class PINF. -/
theorem posInfinityGivesPosZero : Obligations.PosInfinityGivesPosZero := fun s =>
  decode_and_exec_of_class (classOf_eq_pinf (by decide)) (rsqrte_of_pinf s.rom (by decide) (by decide) (by decide))

theorem isQuietNanWord_defaultQnan : isQuietNanWord Params.defaultQnan = true := by decide

/-- Settles O14: the fields of -infinity are those of class NINF. -/
theorem negInfinityGivesDefaultNan : Obligations.NegInfinityGivesDefaultNan := by
  intro s
  rw [← and_assoc]
  exact ⟨decode_and_exec_of_class (classOf_eq_ninf (by decide)) (rsqrte_of_ninf s.rom (by decide) (by decide) (by decide)),
    isQuietNanWord_defaultQnan⟩

/-- Settles O15: the fields are those of class NEG. -/
theorem negativeGivesDefaultNan : Obligations.NegativeGivesDefaultNan := fun _ s hs he h0 =>
  decode_and_exec_of_class (classOf_eq_neg ⟨hs, he, h0⟩) (rsqrte_of_neg s.rom hs he h0)

/-! ### NaNs -/

theorem quietBit_eq_twoPow : Params.quietBit = BitVec.twoPow 64 51 := by decide

/-- R59: setting the quiet bit sets bit 51 and keeps every other bit. -/
theorem getLsbD_or_quietBit (x : Word) (k : Nat) :
    (x ||| Params.quietBit).getLsbD k = (x.getLsbD k || decide (k = 51)) := by
  simp [quietBit_eq_twoPow, BitVec.getLsbD_or, BitVec.getLsbD_twoPow, eq_comm]

/-- R59: a pattern whose quiet bit is set is unchanged. -/
theorem or_quietBit_of_quiet {x : Word} (h : x.getLsbD 51 = true) : x ||| Params.quietBit = x := by
  apply BitVec.eq_of_getLsbD_eq
  intro k _
  rw [getLsbD_or_quietBit]
  by_cases hk : k = 51
  · simp [hk, h]
  · simp [hk]

/-- Settles O16: the value of R53 is the operand with its quiet bit set. -/
theorem nanIsQuieted : Obligations.NanIsQuieted := by
  intro x s he hm
  obtain ⟨hdecode, hexec⟩ := decode_and_exec_of_class (classOf_eq_nan ⟨he, hm⟩) (rsqrte_of_nan s.rom he hm)
  refine ⟨hdecode, x ||| Params.quietBit, hexec, ?_, fun k hk => ?_, or_quietBit_of_quiet⟩
  · rw [getLsbD_or_quietBit, decide_eq_true rfl, Bool.or_true]
  · rw [getLsbD_or_quietBit, decide_eq_false hk, Bool.or_false]

end Sys2Proof.Machine
end

section
/-!
PROOFS. The arithmetic path of RSQRTE: normalization (R62, R90), the exponents (R64, R65), the index (R66, R67), and the result in numbers (R61, R69,
R70).
-/

namespace Sys2Proof.Machine

/-! ### The normalization loop -/

/-- R62: with rounds enough the loop stops in the one in which bit 52 is the mantissa's highest 1 bit. -/
theorem normalizeLoop_eq {k fuel m : Nat} (E : Int) (hfuel : k < fuel) (hlo : 2 ^ 52 ≤ m * 2 ^ (k + 1))
    (hhi : m * 2 ^ (k + 1) < 2 ^ 53) : normalizeLoop fuel E m = (E - (k + 1 : Nat), m * 2 ^ (k + 1)) := by
  induction k generalizing fuel E m with
  | zero =>
    obtain ⟨n, rfl⟩ := Nat.exists_eq_succ_of_ne_zero (Nat.ne_of_gt hfuel)
    have hbit : (m * 2).testBit 52 = true := Nat.testBit_of_two_pow_le_and_two_pow_add_one_gt hlo hhi
    simp [normalizeLoop, Nat.shiftLeft_eq, hbit]
  | succ k ih =>
    obtain ⟨n, rfl⟩ := Nat.exists_eq_succ_of_ne_zero (Nat.ne_zero_of_lt hfuel)
    have hround : m * 2 ^ (k + 1 + 1) = m * 2 * 2 ^ (k + 1) := by ring
    rw [hround] at hlo hhi ⊢
    have hbit : (m * 2).testBit 52 = false := by
      apply Nat.testBit_lt_two_pow
      have : m * 2 * 2 ≤ m * 2 * 2 ^ (k + 1) := Nat.mul_le_mul_left _ (Nat.le_self_pow k.succ_ne_zero 2)
      omega
    have hrest := ih (E - 1) (Nat.lt_of_succ_lt_succ hfuel) hlo hhi
    simp only [normalizeLoop, Nat.shiftLeft_eq, pow_one, hbit, Bool.false_eq_true, if_false, hrest]
    congr 1
    push_cast
    ring

theorem log2_toNat_le_51 {m : MantField} (hm : m ≠ 0) : Nat.log2 m.toNat ≤ 51 :=
  Nat.lt_succ_iff.mp ((Nat.log2_lt (BitVec.toNat_pos_of_ne_zero hm).ne').mpr m.isLt)

/-- R62: a mantissa shifted left until its highest 1 bit stands at place 52. -/
def shiftedMant (m : MantField) : Nat := m.toNat * 2 ^ (52 - Nat.log2 m.toNat)

theorem shiftedMant_bounds {m : MantField} (hm : m ≠ 0) : 2 ^ 52 ≤ shiftedMant m ∧ shiftedMant m < 2 ^ 53 := by
  have h0 : m.toNat ≠ 0 := (BitVec.toNat_pos_of_ne_zero hm).ne'
  have hp := log2_toNat_le_51 hm
  constructor
  · calc 2 ^ 52 = 2 ^ Nat.log2 m.toNat * 2 ^ (52 - Nat.log2 m.toNat) := by rw [← pow_add]; congr 1; omega
      _ ≤ shiftedMant m := Nat.mul_le_mul_right _ (Nat.log2_self_le h0)
  · calc shiftedMant m < 2 ^ (Nat.log2 m.toNat + 1) * 2 ^ (52 - Nat.log2 m.toNat) :=
        Nat.mul_lt_mul_of_pos_right Nat.lt_log2_self (by positivity)
      _ = 2 ^ 53 := by rw [← pow_add]; congr 1; omega

/-- R62, R90: what the loop gives, for any number of rounds from 52 on. -/
theorem normalizeLoop_mant {m : MantField} (hm : m ≠ 0) {fuel : Nat} (hfuel : 52 ≤ fuel) :
    normalizeLoop fuel 0 m.toNat = ((Nat.log2 m.toNat : Int) - 52, shiftedMant m) := by
  have hp := log2_toNat_le_51 hm
  obtain ⟨hlo, hhi⟩ := shiftedMant_bounds hm
  obtain ⟨k, hk⟩ : ∃ k, 52 - Nat.log2 m.toNat = k + 1 := ⟨51 - Nat.log2 m.toNat, by omega⟩
  rw [shiftedMant, hk] at hlo hhi ⊢
  rw [normalizeLoop_eq 0 (by omega) hlo hhi]
  congr 1
  omega

/-- R62: the working exponent of a denormal, with p the place of its highest 1 bit. -/
theorem normalizeMant_fst {m : MantField} (hm : m ≠ 0) : (normalizeMant m).1 = (Nat.log2 m.toNat : Int) - 51 := by
  simp only [normalizeMant, normalizeLoop_mant hm le_rfl]
  omega

/-- R62: the mantissa of a denormal loses its highest 1 bit. -/
theorem normalizeMant_snd_toNat {m : MantField} (hm : m ≠ 0) : (normalizeMant m).2.toNat = shiftedMant m % 2 ^ 52 := by
  simp only [normalizeMant, normalizeLoop_mant hm le_rfl, BitVec.toNat_ofNat]

theorem normalizeMant_fst_bounds {m : MantField} (hm : m ≠ 0) : -51 ≤ (normalizeMant m).1 ∧ (normalizeMant m).1 ≤ 0 := by
  have hp := log2_toNat_le_51 hm
  rw [normalizeMant_fst hm]
  omega

/-- Settles O20: the shift is by 1 - E places, and the implicit bit is what the mantissa loses. -/
theorem normalizeKeepsValue : Obligations.NormalizeKeepsValue := by
  intro m hm
  obtain ⟨hE, hE0⟩ := normalizeMant_fst_bounds hm
  obtain ⟨hlo, hhi⟩ := shiftedMant_bounds hm
  have hshift : (1 - (normalizeMant m).1).toNat = 52 - Nat.log2 m.toNat := by
    rw [normalizeMant_fst hm]
    omega
  refine ⟨hE, hE0, ?_⟩
  rw [hshift, normalizeMant_snd_toNat hm, ← shiftedMant]
  omega

/-- Settles O21: the loop's result does not depend on the rounds allowed. -/
theorem normalizeLoopBounded : Obligations.NormalizeLoopBounded := by
  intro m fuel hm hfuel
  obtain ⟨hlo, hhi⟩ := shiftedMant_bounds hm
  rw [normalizeLoop_mant hm hfuel, normalizeLoop_mant hm le_rfl]
  exact ⟨rfl, Nat.testBit_of_two_pow_le_and_two_pow_add_one_gt hlo hhi, hhi⟩

/-! ### The exponents -/

/-- R65: on every working exponent that occurs the mask drops nothing. -/
theorem outExponent_toNat {E : Int} (hlo : -51 ≤ E) (hhi : E ≤ 2046) : ((outExponent E).toNat : Int) = (3068 - E) / 2 := by
  simp only [outExponent, BitVec.toNat_ofInt, Int.shiftRight_eq_div_pow]
  omega

/-- R65: the field-position form on every working exponent that occurs. -/
theorem outExponentAtField_toNat {E : Int} (hlo : -51 ≤ E) (hhi : E ≤ 2046) :
    ((outExponentAtField E).toNat : Int) = (3068 - E) / 2 := by
  simp only [outExponentAtField, Params.expBias, Params.expOffset, BitVec.extractLsb'_toNat, BitVec.toNat_ofInt,
    Nat.shiftRight_eq_div_pow]
  omega

/-- R55: the range of the output exponent. -/
theorem outExponent_bounds {E : Int} (hlo : -51 ≤ E) (hhi : E ≤ 2046) :
    511 ≤ (outExponent E).toNat ∧ (outExponent E).toNat ≤ 1559 := by
  have := outExponent_toNat hlo hhi
  omega

/-- Settles O22: each form is `(3068 - E) / 2`, rounded down. -/
theorem outExponentForms : Obligations.OutExponentForms := by
  intro E hlo hhi
  have hout := outExponent_toNat hlo hhi
  have hfield := outExponentAtField_toNat hlo hhi
  exact ⟨BitVec.eq_of_toNat_eq (by omega), by omega, outExponent_bounds hlo hhi⟩

/-- R64: the flag is set for an even working exponent. -/
theorem oddFlag_iff (E : Int) : oddFlag E = true ↔ E % 2 = 0 := beq_iff_eq

/-- The lowest bit in two's complement is the parity. -/
theorem getLsbD_ofInt_zero (E : Int) : (BitVec.ofInt 13 E).getLsbD 0 = decide (E % 2 = 1) := by
  rw [BitVec.getLsbD, Nat.testBit_zero, BitVec.toNat_ofInt]
  exact decide_eq_decide.mpr (by omega)

/-- Settles O23: the bias is odd. -/
theorem oddFlagIsUnbiasedParity : Obligations.OddFlagIsUnbiasedParity := by
  intro E
  constructor
  · rw [oddFlag_iff]
    omega
  · rw [getLsbD_ofInt_zero, Bool.eq_not, ne_eq, Bool.eq_iff_iff, decide_eq_true_eq, oddFlag_iff]
    omega

/-! ### The index -/

theorem coarseIndex_eq_div (m : MantField) : coarseIndex m = m.toNat / 2 ^ 48 := by
  simp only [coarseIndex, mantIndex, Params.idxShift, Nat.shiftRight_eq_div_pow]
  omega

theorem fineIndex_eq_div_mod (m : MantField) : fineIndex m = m.toNat / 2 ^ 37 % 2048 := by
  simp only [fineIndex, mantIndex, Params.idxShift, Nat.shiftRight_eq_div_pow]

/-- R66: the fine index is m[47:37]. -/
theorem fineIndex_eq_slice (m : MantField) : fineIndex m = (m.extractLsb' 37 11).toNat := by
  rw [fineIndex_eq_div_mod, BitVec.extractLsb'_toNat, Nat.shiftRight_eq_div_pow]

/-- Settles O25, slice by slice. -/
theorem mantissaIndexSlices : Obligations.MantissaIndexSlices := fun m =>
  ⟨mantIndex_eq_slice m, Nat.le_of_lt_succ (mantIndex_lt m), coarseIndex_eq_slice m, fineIndex_eq_slice m⟩

theorem tableIndex_toNat_eq_div (E : Int) (m : MantField) :
    (tableIndex E m).toNat = m.toNat / 2 ^ 48 + if E % 2 = 0 then 16 else 0 := by
  simp only [tableIndex_toNat, coarseIndex_eq_div, oddFlag_iff]

/-- An exponent field of a normal number with the given odd-exponent flag (R64). -/
def expOfFlag (b : Bool) : ExpField := if b then 2 else 1

/-- R35: an index is read by the operand whose parity is bit 4 and whose mantissa starts with bits 3:0. -/
theorem tableIndex_of_bits (k : RomIndex) :
    tableIndex (expOfFlag (k.getLsbD 4)).toNat (k.extractLsb' 0 4 ++ (0 : BitVec 48)) = k := by
  rw [tableIndex_eq_append, BitVec.extractLsb'_append_eq_left]
  revert k; decide

/-- Settles O31: the operand is made of the index's bits. -/
theorem everyEntryIsReached : Obligations.EveryEntryIsReached := by
  intro k
  refine ⟨expOfFlag (k.getLsbD 4), k.extractLsb' 0 4 ++ (0 : BitVec 48), ?_, tableIndex_of_bits k⟩
  cases k.getLsbD 4 <;> rfl

/-! ### The result -/

/-- R33: the result's fields, with bits 25:0 of the mantissa zero. -/
theorem resultWord_eq_assemble (sg : SignBit) (eo : ExpField) (frac : BitVec 26) :
    resultWord sg eo frac = assemble sg eo (frac ++ (0 : BitVec 26)) := by
  apply BitVec.eq_of_toNat_eq
  simp only [resultWord, assemble, toNat_append_eq_mul_add]
  ring

/-- R69: with a ROM of the property of R47 the path completes, with the output exponent above the point of the entry's line. -/
theorem TableOk.arithPath_completes {s : State} (h : TableOk s.rom) (sg : SignBit) (E : Int) (m : MantField) :
    ∃ f : BitVec 26, arithPath sg E m s = .next (s.driveY (resultWord sg (outExponent E) f)) ∧
      (f.toNat : Int) = ((calRead s.rom (tableIndex E m)).base.toNat : Int) -
        (calRead s.rom (tableIndex E m)).dec.toNat * fineIndex m := by
  obtain ⟨f, hf, -⟩ := h.contribution (tableIndex E m) m
  exact ⟨f, arithPath_of_contribution hf, mantContribution_toNat hf⟩

/-- R69: the result of a positive operand in numbers. -/
theorem TableOk.arithPath_toNat {s : State} (h : TableOk s.rom) {E : Int} (hlo : -51 ≤ E) (hhi : E ≤ 2046) (m : MantField) :
    ∃ v : Word, arithPath 0 E m s = .next (s.driveY v) ∧
      (v.toNat : Int) = (3068 - E) / 2 * 2 ^ 52 +
        (((calRead s.rom (tableIndex E m)).base.toNat : Int) -
          (calRead s.rom (tableIndex E m)).dec.toNat * (m.toNat / 2 ^ 37 % 2048 : Nat)) * 2 ^ 26 := by
  obtain ⟨f, hpath, hf⟩ := h.arithPath_completes 0 E m
  refine ⟨_, hpath, ?_⟩
  obtain ⟨-, hnum⟩ := resultLayout 0 (outExponent E) f
  rw [← fineIndex_eq_div_mod, ← hf, ← outExponent_toNat hlo hhi, hnum]
  simp

theorem normal_toNat_bounds {e : ExpField} (h0 : e ≠ 0) (h1 : e ≠ 0x7FF) : -51 ≤ (e.toNat : Int) ∧ (e.toNat : Int) ≤ 2046 := by
  obtain ⟨-, hhi⟩ := (exponentNormal_iff e).mpr ⟨h0, h1⟩
  omega

/-- Settles O18: the path at the exponent field itself. -/
theorem normResult : Obligations.NormResult := by
  intro e m s h0 h1 hrom
  obtain ⟨hlo, hhi⟩ := normal_toNat_bounds h0 h1
  obtain ⟨v, hpath, hv⟩ := hrom.arithPath_toNat hlo hhi m
  refine ⟨tableIndex e.toNat m, v, ?_, hpath, hv⟩
  rw [tableIndex_toNat_eq_div]
  norm_cast

/-- Settles O19: the path at the normalized pair. -/
theorem denormResult : Obligations.DenormResult := by
  intro m s hm hrom
  obtain ⟨hlo, hhi⟩ := normalizeMant_fst_bounds hm
  obtain ⟨v, hpath, hv⟩ := hrom.arithPath_toNat hlo (by omega) (normalizeMant m).2
  exact ⟨(normalizeMant m).1, (normalizeMant m).2.toNat, _, v, normalizeMant_fst hm, normalizeMant_snd_toNat hm,
    tableIndex_toNat_eq_div _ _, hpath, hv⟩

end Sys2Proof.Machine
end

section
/-!
PROOFS. The result of RSQRTE over all operands: its kind by the operand's class (R71, R72), and the step that computes it (R53).
-/

namespace Sys2Proof.Machine

/-! ### The kinds of a pattern, by its fields -/

theorem isNanWord_iff (v : Word) : isNanWord v = true ↔ expOf v = 0x7FF ∧ mantOf v ≠ 0 := by simp [isNanWord]

theorem isInfWord_iff (v : Word) : isInfWord v = true ↔ expOf v = 0x7FF ∧ mantOf v = 0 := by simp [isInfWord]

theorem isZeroWord_iff (v : Word) : isZeroWord v = true ↔ expOf v = 0 ∧ mantOf v = 0 := by simp [isZeroWord]

theorem isPosNormalWord_iff (v : Word) : isPosNormalWord v = true ↔ signOf v = 0 ∧ expOf v ≠ 0 ∧ expOf v ≠ 0x7FF := by
  simp [isPosNormalWord, and_assoc]

/-! ### The arithmetic path -/

/-- R55, R71: what the results of the arithmetic path are. -/
structure IsArithResult (v : Word) : Prop where
  posNormal : isPosNormalWord v = true
  exp_ge    : 511 ≤ (expOf v).toNat
  exp_le    : (expOf v).toNat ≤ 1559
  low_zero  : v.toNat % 2 ^ 26 = 0

theorem isArithResult_resultWord {E : Int} (hlo : -51 ≤ E) (hhi : E ≤ 2046) (f : BitVec 26) :
    IsArithResult (resultWord 0 (outExponent E) f) := by
  obtain ⟨hge, hle⟩ := outExponent_bounds hlo hhi
  have hexp : expOf (resultWord 0 (outExponent E) f) = outExponent E := by rw [resultWord_eq_assemble, expOf_assemble]
  have hnormal : outExponent E ≠ 0 ∧ outExponent E ≠ 0x7FF := (exponentNormal_iff _).mp (by omega)
  constructor
  case posNormal =>
    rw [isPosNormalWord_iff, hexp, resultWord_eq_assemble, signOf_assemble]
    exact ⟨rfl, hnormal⟩
  case exp_ge => rwa [hexp]
  case exp_le => rwa [hexp]
  case low_zero =>
    rw [resultWord, toNat_append_eq_mul_add]
    simp

theorem TableOk.arithResult_isArithResult {rom : CalTable} (h : TableOk rom) {E : Int} (hlo : -51 ≤ E) (hhi : E ≤ 2046)
    (m : MantField) : ∃ v, arithResult rom 0 E m = some v ∧ IsArithResult v := by
  obtain ⟨f, hf, -⟩ := h.contribution (tableIndex E m) m
  exact ⟨_, congrArg (Option.map _) hf, isArithResult_resultWord hlo hhi f⟩

theorem TableOk.denorm_isArithResult {rom : CalTable} (h : TableOk rom) {m : MantField} (hm : m ≠ 0) :
    ∃ v, arithResult rom 0 (normalizeMant m).1 (normalizeMant m).2 = some v ∧ IsArithResult v := by
  obtain ⟨hlo, hhi⟩ := normalizeMant_fst_bounds hm
  exact h.arithResult_isArithResult hlo (by omega) _

theorem TableOk.norm_isArithResult {rom : CalTable} (h : TableOk rom) {e : ExpField} (h0 : e ≠ 0) (h1 : e ≠ 0x7FF)
    (m : MantField) : ∃ v, arithResult rom 0 e.toNat m = some v ∧ IsArithResult v := by
  obtain ⟨hlo, hhi⟩ := normal_toNat_bounds h0 h1
  exact h.arithResult_isArithResult hlo hhi m

/-- Settles O29: both arithmetic classes run the path on a working exponent in -51..2046. -/
theorem arithResultIsPositiveNormal : Obligations.ArithResultIsPositiveNormal := by
  rintro i s hwf hrom (⟨m, rfl⟩ | ⟨e, m, rfl⟩)
  · have hm : m ≠ 0 := by simpa [Instr.wellFormed] using hwf
    obtain ⟨v, hv, hr⟩ := hrom.denorm_isArithResult hm
    exact ⟨v, arithPath_of_arithResult hv, hr.posNormal, hr.exp_ge, hr.exp_le, hr.low_zero⟩
  · have he : e ≠ 0 ∧ e ≠ 0x7FF := by simpa [Instr.wellFormed] using hwf
    obtain ⟨v, hv, hr⟩ := hrom.norm_isArithResult he.1 he.2 m
    exact ⟨v, arithPath_of_arithResult hv, hr.posNormal, hr.exp_ge, hr.exp_le, hr.low_zero⟩

/-! ### The result by class -/

theorem expOf_or (x y : Word) : expOf (x ||| y) = expOf x ||| expOf y :=
  BitVec.extractLsb'_or

theorem mantOf_ne_zero_of_quiet {v : Word} (h : v.getLsbD 51 = true) : mantOf v ≠ 0 := by
  intro hm
  have hbit : (mantOf v).getLsbD 51 = true := by simpa [mantOf] using h
  simp [hm] at hbit

/-- R52: the quiet bit alone makes the mantissa one of a NaN. -/
theorem isQuietNanWord_iff (v : Word) : isQuietNanWord v = true ↔ expOf v = 0x7FF ∧ v.getLsbD 51 = true := by
  rw [isQuietNanWord, Bool.and_eq_true, isNanWord_iff]
  exact ⟨fun ⟨⟨he, _⟩, hq⟩ => ⟨he, hq⟩, fun ⟨he, hq⟩ => ⟨⟨he, mantOf_ne_zero_of_quiet hq⟩, hq⟩⟩

/-- R59, R72: a NaN with its quiet bit set is a quiet NaN. -/
theorem isQuietNanWord_or_quietBit {x : Word} (he : expOf x = 0x7FF) : isQuietNanWord (x ||| Params.quietBit) = true := by
  rw [isQuietNanWord_iff, expOf_or, he, getLsbD_or_quietBit, decide_eq_true rfl, Bool.or_true]
  decide

/-- R71, R72: with a ROM of the property of R47 RSQRTE has a value on every operand: an infinity, a zero, one of the two quiet NaNs or a normal
number, by the class. -/
theorem TableOk.rsqrte_cases {rom : CalTable} (h : TableOk rom) (x : Word) : ∃ v, rsqrte rom x = some v ∧
    ((classOf x = .zero ∧ expOf v = 0x7FF ∧ mantOf v = 0) ∨
     (classOf x = .pinf ∧ expOf v = 0 ∧ mantOf v = 0) ∨
     ((classOf x = .nan ∨ classOf x = .ninf ∨ classOf x = .neg) ∧
       (v = Params.defaultQnan ∨ v = x ||| Params.quietBit) ∧ isQuietNanWord v = true) ∨
     ((classOf x = .denorm ∨ classOf x = .norm) ∧ isPosNormalWord v = true)) := by
  rcases classOf_cases x with ⟨hc, he, hm⟩ | ⟨hc, hs, he, hm⟩ | ⟨hc, hs, he, hm⟩ | ⟨hc, he, hm⟩ | ⟨hc, hs, he, h0⟩ |
    ⟨hc, hs, he, hm⟩ | ⟨hc, hs, he, he'⟩
  · exact ⟨_, rsqrte_of_zero rom he hm, .inl ⟨hc, by simp⟩⟩
  · exact ⟨_, rsqrte_of_pinf rom hs he hm, .inr (.inl ⟨hc, by decide⟩)⟩
  · exact ⟨_, rsqrte_of_ninf rom hs he hm, .inr (.inr (.inl ⟨.inr (.inl hc), .inl rfl, isQuietNanWord_defaultQnan⟩))⟩
  · exact ⟨_, rsqrte_of_nan rom he hm, .inr (.inr (.inl ⟨.inl hc, .inr rfl, isQuietNanWord_or_quietBit he⟩))⟩
  · exact ⟨_, rsqrte_of_neg rom hs he h0, .inr (.inr (.inl ⟨.inr (.inr hc), .inl rfl, isQuietNanWord_defaultQnan⟩))⟩
  · obtain ⟨v, hv, hr⟩ := h.denorm_isArithResult hm
    exact ⟨v, (rsqrte_of_denorm rom hs he hm).trans hv, .inr (.inr (.inr ⟨.inl hc, hr.posNormal⟩))⟩
  · obtain ⟨v, hv, hr⟩ := h.norm_isArithResult he he' (mantOf x)
    exact ⟨v, (rsqrte_of_norm rom hs he he').trans hv, .inr (.inr (.inr ⟨.inr hc, hr.posNormal⟩))⟩

/-- Settles O33: the step runs the transaction, which drives Y with the value of R53. -/
theorem stepComputesRsqrte : Obligations.StepComputesRsqrte := by
  intro s x rest hrom hhost
  obtain ⟨v, hv⟩ := hrom.rsqrte_total x
  exact ⟨v, hv, (step_present hhost).trans (runTransaction_rsqrte hv)⟩

/-- Settles O35: the exponent and the mantissa of each kind of result. -/
theorem resultKindByClass : Obligations.ResultKindByClass := by
  intro x s hrom
  obtain ⟨v, hv, hkind⟩ := hrom.rsqrte_cases x
  refine ⟨v, runTransaction_rsqrte hv, ?_⟩
  rw [isNanWord_iff, isInfWord_iff, isZeroWord_iff]
  rcases hkind with ⟨hc, he, hm⟩ | ⟨hc, he, hm⟩ | ⟨hc, -, hq⟩ | ⟨hc, hp⟩
  · simp [hc, he, hm]
  · simp [hc, he, hm]
  · obtain ⟨he, hbit⟩ := (isQuietNanWord_iff v).mp hq
    have hm := mantOf_ne_zero_of_quiet hbit
    rcases hc with hc | hc | hc <;> simp_all
  · obtain ⟨-, h0, h1⟩ := (isPosNormalWord_iff v).mp hp
    rcases hc with hc | hc <;> simp_all

/-- Settles O36: of the kinds of result one is a NaN, and a result with exponent zero is a zero. -/
theorem nanAndDenormalOutputs : Obligations.NanAndDenormalOutputs := by
  intro x s hrom
  obtain ⟨v, hv, hkind⟩ := hrom.rsqrte_cases x
  refine ⟨v, runTransaction_rsqrte hv, ?_⟩
  rw [isNanWord_iff]
  rcases hkind with ⟨-, he, hm⟩ | ⟨-, he, hm⟩ | ⟨-, hv, hq⟩ | ⟨-, hp⟩
  · exact ⟨fun ⟨_, hne⟩ => absurd hm hne, fun ⟨_, hne⟩ => hne hm⟩
  · exact ⟨fun ⟨_, hne⟩ => absurd hm hne, fun ⟨_, hne⟩ => hne hm⟩
  · obtain ⟨he, -⟩ := (isQuietNanWord_iff v).mp hq
    exact ⟨fun _ => ⟨hv, hq⟩, by simp [he]⟩
  · obtain ⟨-, h0, h1⟩ := (isPosNormalWord_iff v).mp hp
    exact ⟨fun ⟨he, _⟩ => absurd he h1, fun ⟨he, _⟩ => h0 he⟩

end Sys2Proof.Machine
end

section
/-!
PROOFS. The host's side: the step of a presented transaction (R82), the transaction placed before all others (R87), and the judgement of a sample
(R84).
-/

namespace Sys2Proof.Machine

/-! ### The transaction of the next step -/

/-- Settles O37: the step runs the transaction, whose decode names the instruction. -/
theorem stepRunsDecodedInstruction : Obligations.StepRunsDecodedInstruction :=
  fun s _ _ rest hhost hdecode => (step_present hhost).trans (runTransaction_of_decode hdecode (s.setHost rest))

/-- R87: the transaction placed first is run in the state before it was placed, since the step takes it off the host's list again. -/
theorem step_placeFirst (s : State) (t : Transaction) : step (s.placeFirst t) = runTransaction t s :=
  step_present (s := s.placeFirst t) rfl

theorem State.withFetchWord_of_tableTransaction {nbits w : Nat} {t : Transaction} (h : tableTransaction nbits w = some t) (s : State) :
    s.withFetchWord nbits w = s.placeFirst t := by
  simp [State.withFetchWord, h]

/-- Settles O48: the word's transaction is placed first. -/
theorem tableWordRunsFirst : Obligations.TableWordRunsFirst := by
  intro s nbits w t h
  rw [State.withFetchWord_of_tableTransaction h, step_placeFirst]

/-! ### The host's judgement -/

/-- R84: two results match when both are NaNs or they agree in every bit. -/
def ResultsMatch (oracle model : Word) : Prop :=
  (isNanWord oracle = true ∧ isNanWord model = true) ∨ oracle = model

theorem not_resultsMatch_iff {oracle model : Word} :
    ¬ResultsMatch oracle model ↔ oracle ≠ model ∧ ¬(isNanWord oracle = true ∧ isNanWord model = true) :=
  not_or.trans and_comm

theorem judge_of_nan {x : Word} (hx : isNanWord x = true) (oracle model : Word) : judge x oracle model = .skipped :=
  if_pos hx

theorem judge_of_match {x oracle model : Word} (hx : isNanWord x = false) (h : ResultsMatch oracle model) :
    judge x oracle model = .agrees := by
  rcases h with ⟨ho, hm⟩ | rfl
  · simp [judge, hx, ho, hm]
  · simp [judge, hx]

theorem judge_of_not_match {x oracle model : Word} (hx : isNanWord x = false) (h : ¬ResultsMatch oracle model) :
    judge x oracle model = .differs := by
  simpa [judge, hx, ResultsMatch] using h

/-- Settles O47: the sample is a NaN, or the two results match, or they do not. -/
theorem harnessJudgement : Obligations.HarnessJudgement := by
  intro x oracle model
  rw [← not_resultsMatch_iff]
  cases hx : isNanWord x with
  | true => simp [judge_of_nan hx]
  | false =>
    by_cases hmatch : ResultsMatch oracle model
    · simp [judge_of_match hx hmatch, hmatch]
    · simp [judge_of_not_match hx hmatch, hmatch]

end Sys2Proof.Machine
end
